-- ==== Sys2Proof/Word.lean ====
section
/-! DEFINITION. The word types of the block (spec/00_scope.md R10, spec/30_encoding.md R60). -/

namespace Sys2Proof

/-- An unsigned 8-bit value; bit 0 is the least significant bit (R10). -/
abbrev Byte := BitVec 8

/-- One command word `cmd_word[39:0]`, the only length there is (R60, R61). -/
abbrev CmdWord := BitVec 40

end Sys2Proof
end

