-- ==== Sys2Proof/Config.lean ====
section
/-! DEFINITION. The build-time parameters (spec/00_scope.md R5 to R9), the values no source gives, and the free
values. -/

namespace Sys2Proof

/-- One build of the block: every parameter of R5. It stands outside the state (R8, R30): what depends on it takes it as
an argument (R5, log 1). A byte-valued parameter lies in 0x00 to 0xFF by its type (R9). -/
structure Config where
  /-- `N`, the number of device slots. -/
  chainLength : Nat
  /-- `FRAME_SIZE`, the bytes of one delimiter (never of a command frame, conflict C4). -/
  frameSize : Nat
  /-- `START_MARKER`. -/
  startMarker : Byte
  /-- `END_MARKER`. -/
  endMarker : Byte
  /-- `MIN_INTENSITY`, used by init and turnOff. -/
  minIntensity : Byte
  /-- `MAX_INTENSITY`: an option of the source that no command reads (R7, D11). -/
  maxIntensity : Byte
  /-- `POWER_SAVING`. -/
  powerSaving : Bool
  /-- `ENABLE_FLAG`. -/
  enableFlag : Byte
  /-- `SLEEP_FLAG`. -/
  sleepFlag : Byte
  /-- `START_FLAG`, OPEN (R6, D10). -/
  startFlag : Byte
  /-- `ENC_MASK`, the intensity mask of init and turnOff (R7). -/
  encMask : Byte
  /-- `SET_MASK`, the intensity mask of setOne and setAll (R7). -/
  setMask : Byte
  deriving DecidableEq, Repr, Inhabited

/-- The reference configuration of R5: the source's defaults, which are unaudited (log 3), and
the three parameters that have none as arguments. -/
def Config.reference (n : Nat) (powerSaving : Bool) (startFlag : Byte) : Config where
  chainLength := n
  frameSize := 4
  startMarker := 0x00
  endMarker := 0xFF
  minIntensity := 0x01
  maxIntensity := 0x1F
  powerSaving := powerSaving
  enableFlag := 0xE0
  sleepFlag := 0xA0
  startFlag := startFlag
  encMask := 0x1F
  setMask := 0x3F

/-- Some build, of which nothing is known. DESIGN CHOICE, safe (log 2): each build fixes its own parameters (R5). -/
opaque Config.anyBuild : Config

/-- The configuration of the machine the host runs (`step`): any build with `N ≥ 1` and `FRAME_SIZE ≥ 1` (R9, log 2).
Every valid configuration has this form. -/
def Config.built : Config :=
  { Config.anyBuild with
    chainLength := Config.anyBuild.chainLength + 1
    frameSize := Config.anyBuild.frameSize + 1 }

/-- The bytes the spec leaves unspecified (U4, U5): what RESET leaves in OP and COLOR (R30), and `tx_byte` while
BUSY = 0 (R38). -/
inductive Unspecified
  | op | colorR | colorG | colorB | colorI | txByte
  deriving DecidableEq, Repr

/-- A free value: the byte the hardware happens to have for an unspecified one, fresh for each number drawn. Nothing
constrains it (log 5, log 6). -/
opaque Config.freeByte : Unspecified → Nat → Byte

end Sys2Proof
end

