-- ==== Sys2Proof/Syntax.lean ====
section
/-! DEFINITION. The Color operand (spec/00_scope.md R13) and the seven commands (spec/30_encoding.md R63). -/

namespace Sys2Proof

/-- The four bytes of a color, in the source's declaration order. All 256 values of each are legal (R13). -/
structure Color where
  r : Byte
  g : Byte
  b : Byte
  i : Byte
  deriving DecidableEq, Repr, Inhabited

/-- A command, one constructor per row of spec/opcode_table.json. Each carries the color fields of its word, since
ACCEPT latches them for every opcode (R21, R65); only setOne and setAll ever read them. -/
inductive Instr
  | sendStart (c : Color)
  | sendEnd (c : Color)
  | init (c : Color)
  | setOne (c : Color)
  | setAll (c : Color)
  | turnOff (c : Color)
  | turnAllOff (c : Color)
  deriving DecidableEq, Repr, Inhabited

end Sys2Proof
end

