-- ==== Sys2Proof/WellFormed.lean ====
section
/-! DEFINITION. The checks on what the block is given: a configuration (spec/00_scope.md R9) and, for text written by
the assembler only, the operand fields a command does not use (spec/30_encoding.md R65, R67). Every `Instr` is a
command the block accepts: its operands are bytes by their type, and all their values are legal (R62). -/

namespace Sys2Proof

/-- A valid configuration: `N ≥ 1` and `FRAME_SIZE ≥ 1` (R9, D13). -/
def Config.valid (c : Config) : Bool :=
  match c.chainLength, c.frameSize with
  | 0, _ => false
  | _ + 1, 0 => false
  | _ + 1, _ + 1 => true

/-- The color whose four bytes are zero, which the assembler writes into fields a command ignores (R65). -/
def Color.zero : Color := ⟨0, 0, 0, 0⟩

/-- The command is one the assembler can write: a command without operands has zero fields (R65, R67). A decoder and
the block take every value (R65). -/
def Instr.assemblerForm (i : Instr) : Bool :=
  match i with
  | .sendStart c => c == Color.zero
  | .sendEnd c => c == Color.zero
  | .init c => c == Color.zero
  | .setOne _ => true
  | .setAll _ => true
  | .turnOff c => c == Color.zero
  | .turnAllOff c => c == Color.zero

end Sys2Proof
end

