-- ==== Sys2Proof/Machine/State.lean ====
section
/-! DEFINITION. The state of the block, the records the spec defines over the outside world, the inputs, and reset
(spec/10_state.md R20 to R30, R33, R37, R38; spec/70_reset_and_hazards.md R150, R154). -/

namespace Sys2Proof.Machine

/-- The reasons a step ends in a fault: there are none. The block raises nothing (R130) and R131 says "There is no
fault outcome". -/
inductive Fault
  deriving DecidableEq, Repr

/-- The reasons the model gives no meaning (R12, R131). Each is safe: the run is marked refused and nothing follows. -/
inductive Refusal
  /-- `exec`'s arm of an instruction not modelled yet. Nothing raises it: every command has its meaning. Safe. -/
  | notModelled (mnemonic : String)
  /-- `refuse RESERVED_OPCODE`, raised by a step at the handshake of a word whose OP is 0x07 to 0xFF (R64, R131 a).
  Safe. -/
  | reservedOpcode (op : Byte)
  /-- `refuse INVALID_CONFIG`, raised by every step of a build that breaks R9, so that no run exists (R131 b). Safe. -/
  | invalidConfig
  /-- Raised by EMIT when BUSY = 1 and `Stream(OP, COLOR)` has no byte at POS. R29 (b) rules it out in every reachable
  state (log 12). Safe. -/
  | noByteAtPos
  deriving DecidableEq, Repr

/-- What the outside drives into the block's ports during one step (R33, R38, R150). -/
structure Inputs where
  /-- The reset source asserts RESET in this step. -/
  reset : Bool
  /-- `cmd_valid`. -/
  cmdValid : Bool
  /-- `cmd_word[39:0]`. -/
  cmdWord : CmdWord
  /-- `tx_ready`: the transport accepts a byte in this step. -/
  txReady : Bool
  /-- `rx_byte[7:0]`, which no rule reads (R38). -/
  rxByte : Byte
  deriving DecidableEq, Repr, Inhabited

/-- The outside does nothing: no RESET, no command, the transport not ready (log 7). -/
def Inputs.quiet : Inputs := ⟨false, false, 0, false, 0⟩

/-- The whole machine as plain data. The configuration is no part of it (R8, R30, log 1). -/
structure State where
  /-- BUSY (R24). -/
  busy : Bool
  /-- POS, the index of the next byte to emit (R23). -/
  pos : Nat
  /-- The OP latch (R22). -/
  op : Byte
  /-- The COLOR latch (R21). -/
  color : Color
  /-- The TX trace: every byte the transport has accepted, in order (R37). A record; no event reads it. -/
  tx : List Byte
  /-- The command history: the commands accepted since the last RESET, in order (R154). A record; no event reads it. -/
  history : List Instr
  /-- How long `tx` was at the last RESET (log 14). A record; no event reads it. -/
  txMark : Nat
  /-- The inputs of the step about to be taken (log 7). -/
  port : Inputs
  /-- The inputs of the steps after it, oldest first (log 7). -/
  later : List Inputs
  /-- How many steps were taken: it numbers the free values (log 5). -/
  draw : Nat
  deriving DecidableEq, Repr, Inhabited

/-- The machine right after reset, for every configuration: BUSY and POS as R30 states them, TX empty (R150), the
history empty (R154). OP and COLOR are unspecified and unobservable there: zero, DESIGN CHOICE, unsafe (log 4). -/
def State.reset : State where
  busy := false
  pos := 0
  op := 0
  color := ⟨0, 0, 0, 0⟩
  tx := []
  history := []
  txMark := 0
  port := Inputs.quiet
  later := []
  draw := 0

end Sys2Proof.Machine
end

