-- ==== Sys2Proof/Machine/Operands.lean ====
section
/-! DEFINITION. The datapath (spec/40_frame_encoder.md): the frame encoder, the dark color, the delimiters, the off
flag, and the self-contained transaction built of them. -/

namespace Sys2Proof.Machine

/-- `Enc(flag, c, m)`: flag and masked intensity, blue, green, red, first byte first (R80, R42). Masking drops bits, it
neither saturates nor rejects (R81). -/
def enc (flag : Byte) (c : Color) (m : Byte) : List Byte :=
  [flag ||| (c.i &&& m), c.b, c.g, c.r]

/-- `Cmin`, the dark color of init and turnOff (R83). -/
def darkColor (cfg : Config) : Color := ⟨0x00, 0x00, 0x00, cfg.minIntensity⟩

/-- `DelimStart` (R84): its length is `FRAME_SIZE` whatever `N` is (R92). -/
def delimStart (cfg : Config) : List Byte := List.replicate cfg.frameSize cfg.startMarker

/-- `DelimEnd` (R84): its length is `FRAME_SIZE` whatever `N` is (R92). -/
def delimEnd (cfg : Config) : List Byte := List.replicate cfg.frameSize cfg.endMarker

/-- `OFF_FLAG` (R120). -/
def offFlag (cfg : Config) : Byte := if cfg.powerSaving then cfg.sleepFlag else cfg.startFlag

/-- `replicate(n, s)` for a byte sequence `s` (R11). -/
def copies (n : Nat) (frame : List Byte) : List Byte := (List.replicate n frame).flatten

/-- A start delimiter, one frame for each of the `N` slots, an end delimiter (R31). -/
def transaction (cfg : Config) (frame : List Byte) : List Byte :=
  delimStart cfg ++ copies cfg.chainLength frame ++ delimEnd cfg

end Sys2Proof.Machine
end

