-- ==== Sys2Proof/Decode.lean ====
section
/-! DEFINITION. Command words and commands (spec/30_encoding.md R60 to R69): the fields of a word, the opcode map, the
decoder, total on all 40-bit words, the encoder, and the table's numbering of bits. -/

namespace Sys2Proof

/-! ### The fields of a word (R60, R62) -/

/-- `cmd_word[39:32]`. -/
def opField (w : CmdWord) : Byte := w.extractLsb' 32 8

/-- The four color fields, `cmd_word[31:0]` from the high field down, neither extended nor masked (R62). -/
def colorField (w : CmdWord) : Color where
  r := w.extractLsb' 24 8
  g := w.extractLsb' 16 8
  b := w.extractLsb' 8 8
  i := w.extractLsb' 0 8

/-! ### The opcode map (R63) -/

/-- The value of the OP field that stands for the command (R63, D3). -/
def Instr.opcode (i : Instr) : Byte :=
  match i with
  | .sendStart _ => 0x00
  | .sendEnd _ => 0x01
  | .init _ => 0x02
  | .setOne _ => 0x03
  | .setAll _ => 0x04
  | .turnOff _ => 0x05
  | .turnAllOff _ => 0x06

/-- The color fields of the command's word. -/
def Instr.color (i : Instr) : Color :=
  match i with
  | .sendStart c => c
  | .sendEnd c => c
  | .init c => c
  | .setOne c => c
  | .setAll c => c
  | .turnOff c => c
  | .turnAllOff c => c

/-- The command of an OP value and a color, by equality on all eight bits of OP (R63). None for a reserved opcode,
0x07 to 0xFF (R64). -/
def Instr.ofFields (op : Byte) (c : Color) : Option Instr :=
  if op = 0x00#8 then some (.sendStart c)
  else if op = 0x01#8 then some (.sendEnd c)
  else if op = 0x02#8 then some (.init c)
  else if op = 0x03#8 then some (.setOne c)
  else if op = 0x04#8 then some (.setAll c)
  else if op = 0x05#8 then some (.turnOff c)
  else if op = 0x06#8 then some (.turnAllOff c)
  else none

/-! ### Decoder and encoder (R67, R69) -/

/-- What a word says: a command, or RESERVED with the opcode that is (R69: no other outcome exists). -/
inductive Decoded
  | command (i : Instr)
  | reserved (op : Byte)
  deriving DecidableEq, Repr

/-- `Decode(w)` of R69. -/
def decode (w : CmdWord) : Decoded :=
  match Instr.ofFields (opField w) (colorField w) with
  | some i => .command i
  | none => .reserved (opField w)

/-- `OP << 32 | R << 24 | G << 16 | B << 8 | I` (R67). -/
def encodeFields (op : Byte) (c : Color) : CmdWord :=
  op.setWidth 40 <<< 32 ||| c.r.setWidth 40 <<< 24 ||| c.g.setWidth 40 <<< 16 ||| c.b.setWidth 40 <<< 8 |||
    c.i.setWidth 40

/-- The word of a command. -/
def encode (i : Instr) : CmdWord := encodeFields i.opcode i.color

/-! ### The table's numbering (spec/opcode_table.json) -/

/-- The low `nbits` bits of `w` as a command word, the bits above them zero. None where they do not fit in the 40 bits
every word has (R61, log 20). -/
def tableWord (nbits w : Nat) : Option CmdWord :=
  if w % 2 ^ nbits < 2 ^ 40 then some (BitVec.ofNat 40 (w % 2 ^ nbits)) else none

/-- The command the decoder reads from a table row's bits, bit 0 the least significant of the one word. -/
def decodeTableWord (nbits w : Nat) : Option Instr :=
  match tableWord nbits w with
  | none => none
  | some cw =>
    match decode cw with
    | .command i => some i
    | .reserved _ => none

end Sys2Proof
end

