-- ==== Sys2Proof/Machine/Flags.lean ====
section
/-! DEFINITION. BUSY, the block's only flag (spec/10_state.md R24): what EMIT makes of it and of POS, and the outputs
made from it (R34, R38). -/

namespace Sys2Proof.Machine

/-- BUSY after the EMIT of the byte at `pos` of a stream of `len` bytes: 0 at the last byte (R36). -/
def busyAfterEmit (pos len : Nat) : Bool := if pos + 1 = len then false else true

/-- POS after the EMIT of the byte at `pos` of a stream of `len` bytes: 0 at the last byte (R36). -/
def posAfterEmit (pos len : Nat) : Nat := if pos + 1 = len then 0 else pos + 1

/-- The status output `busy` (R34). -/
def State.busyOut (s : State) : Bool := s.busy

/-- The output `cmd_ready` (R34). -/
def State.cmdReady (s : State) : Bool := !s.busy

/-- The output `tx_valid` (R38). -/
def State.txValid (s : State) : Bool := s.busy

end Sys2Proof.Machine
end

