-- ==== Sys2Proof/Machine/Ops.lean ====
section
/-! DEFINITION. The named operations over the state: the three events' effects (spec/10_state.md R35, R36;
spec/70_reset_and_hazards.md R150), and the outside moving on by one step. The block has no trap to take and none to
return from (spec/60_exceptions.md R134, R135). -/

namespace Sys2Proof.Machine

/-- The outcome of one event. -/
abbrev Result := Host.Outcome State Fault Refusal

/-- The effect of ACCEPT (R35): OP and COLOR latched, POS 0, BUSY 1, no byte; the history takes the command (R154). -/
def State.accepted (i : Instr) (s : State) : State :=
  { s with op := i.opcode, color := i.color, pos := 0, busy := true, history := s.history ++ [i] }

/-- The effect of EMIT of `b` from a stream of `len` bytes (R36): `Emit(b)` (R41), then POS and BUSY. -/
def State.sent (b : Byte) (len : Nat) (s : State) : State :=
  { s with tx := s.tx ++ [b], pos := posAfterEmit s.pos len, busy := busyAfterEmit s.pos len }

/-- The effect of RESET (R150, R30): BUSY and POS 0, OP and COLOR unspecified (free values, log 5), TX kept. The
history starts anew (R154). -/
def State.afterReset (s : State) : State :=
  { s with
    busy := false
    pos := 0
    op := Config.freeByte .op s.draw
    color :=
      { r := Config.freeByte .colorR s.draw
        g := Config.freeByte .colorG s.draw
        b := Config.freeByte .colorB s.draw
        i := Config.freeByte .colorI s.draw }
    history := []
    txMark := s.tx.length }

/-- The inputs that follow, quiet when none is listed (log 7). -/
def nextPort (later : List Inputs) : Inputs :=
  match later with
  | [] => Inputs.quiet
  | p :: _ => p

/-- The outside moves on by one step: the next inputs stand at the ports (log 7). -/
def State.advance (s : State) : State :=
  { s with port := nextPort s.later, later := s.later.tail, draw := s.draw + 1 }

/-- ACCEPT of a command (R35), which reads no parameter. While BUSY = 1 it is not enabled: the command waits and nothing
changes (R33, R157, log 13). -/
def accept (i : Instr) (s : State) : Result :=
  if s.busy then .next s else .next (s.accepted i)

/-- EMIT from a given stream (R36). While BUSY = 0 it is not enabled and nothing changes (R39). -/
def emitFrom (stream : List Byte) (s : State) : Result :=
  if s.busy then
    match stream[s.pos]? with
    | some b => .next (s.sent b stream.length)
    | none => .refused .noByteAtPos
  else .next s

/-- The event of a step, then the outside's move. -/
def thenAdvance (r : Result) : Result :=
  match r with
  | .next s => .next s.advance
  | .fault f => .fault f
  | .refused x => .refused x

end Sys2Proof.Machine
end

