-- ==== Sys2Proof/Machine/ColorSet.lean ====
section
/-! DEFINITION. setOne and setAll (spec/43_color_set.md R110, R111). Their ACCEPT is the meaning; the EMIT steps take
the stream (log 16). -/

namespace Sys2Proof.Machine

/-- `SetFrame(c)`: the enable flag, the given color, the set path's mask (R110, conflict C1). No clamping to the
intensity options (D26). -/
def setFrame (cfg : Config) (c : Color) : List Byte := enc cfg.enableFlag c cfg.setMask

/-- The bytes of setOne (R110): no delimiter. -/
def setOneStream (cfg : Config) (c : Color) : List Byte := setFrame cfg c

/-- The bytes of setAll (R111). -/
def setAllStream (cfg : Config) (c : Color) : List Byte := transaction cfg (setFrame cfg c)

/-- setOne (R110): a fragment, accepted in or out of a window (R155). -/
def execSetOne (c : Color) (s : State) : Result := accept (.setOne c) s

/-- setAll (R111). -/
def execSetAll (c : Color) (s : State) : Result := accept (.setAll c) s

end Sys2Proof.Machine
end

