-- ==== Sys2Proof/Machine/Delimiters.lean ====
section
/-! DEFINITION. sendStart and sendEnd (spec/41_delimiters.md R90, R91). A command's rule is its ACCEPT, which is its
meaning here, and then one EMIT for each byte of its stream (R36), which `emit` takes from the stream below (log 16). -/

namespace Sys2Proof.Machine

/-- The bytes of sendStart (R90). -/
def sendStartStream (cfg : Config) : List Byte := delimStart cfg

/-- The bytes of sendEnd (R91). -/
def sendEndStream (cfg : Config) : List Byte := delimEnd cfg

/-- sendStart (R90): no check that no window is open (R154). -/
def execSendStart (c : Color) (s : State) : Result := accept (.sendStart c) s

/-- sendEnd (R91): no check that a window is open (R154). -/
def execSendEnd (c : Color) (s : State) : Result := accept (.sendEnd c) s

end Sys2Proof.Machine
end

