-- ==== Sys2Proof/Machine/Init.lean ====
section
/-! DEFINITION. init (spec/42_init.md R100). Its ACCEPT is the meaning; the EMIT steps take the stream (log 16). -/

namespace Sys2Proof.Machine

/-- `InitFrame`: the enable flag, the dark color, the encoder's mask (R100, D21). -/
def initFrame (cfg : Config) : List Byte := enc cfg.enableFlag (darkColor cfg) cfg.encMask

/-- The bytes of init (R100). -/
def initStream (cfg : Config) : List Byte := transaction cfg (initFrame cfg)

/-- init (R100): accepted at any time, first or not (R152). -/
def execInit (c : Color) (s : State) : Result := accept (.init c) s

end Sys2Proof.Machine
end

