-- ==== Sys2Proof/Machine/Power.lean ====
section
/-! DEFINITION. turnOff and turnAllOff (spec/44_power.md R120 to R122). Their ACCEPT is the meaning; the EMIT steps
take the stream (log 16). -/

namespace Sys2Proof.Machine

/-- `OffFrame`: the off flag, the dark color, the encoder's mask (R120, D21). -/
def offFrame (cfg : Config) : List Byte := enc (offFlag cfg) (darkColor cfg) cfg.encMask

/-- The bytes of turnOff (R121): no delimiter. -/
def turnOffStream (cfg : Config) : List Byte := offFrame cfg

/-- The bytes of turnAllOff (R122). -/
def turnAllOffStream (cfg : Config) : List Byte := transaction cfg (offFrame cfg)

/-- turnOff (R121): a fragment, accepted in or out of a window (R155). -/
def execTurnOff (c : Color) (s : State) : Result := accept (.turnOff c) s

/-- turnAllOff (R122). -/
def execTurnAllOff (c : Color) (s : State) : Result := accept (.turnAllOff c) s

end Sys2Proof.Machine
end

