-- ==== Sys2Proof/Machine/Emit.lean ====
section
/-! DEFINITION. `Stream(OP, COLOR)` and EMIT (spec/10_state.md R31, R36, R38). -/

namespace Sys2Proof.Machine

/-- The byte stream of a command (R31): a function of the command and the configuration only (R32). -/
def stream (cfg : Config) (i : Instr) : List Byte :=
  match i with
  | .sendStart _ => sendStartStream cfg
  | .sendEnd _ => sendEndStream cfg
  | .init _ => initStream cfg
  | .setOne c => setOneStream cfg c
  | .setAll c => setAllStream cfg c
  | .turnOff _ => turnOffStream cfg
  | .turnAllOff _ => turnAllOffStream cfg

/-- The command the latches OP and COLOR hold, none where OP is reserved. While BUSY = 1 it is the command in flight
(R22, R28). -/
def State.latched (s : State) : Option Instr := Instr.ofFields s.op s.color

/-- `Stream(OP, COLOR)` of the latches, with no byte where OP is reserved (R31, log 12). -/
def State.latchedStream (s : State) (cfg : Config) : List Byte :=
  match s.latched with
  | some i => stream cfg i
  | none => []

/-- EMIT (R36). `rx_byte` is not read (R38). -/
def emit (cfg : Config) (s : State) : Result := emitFrom (s.latchedStream cfg) s

/-- The output `tx_byte[7:0]` (R38): the next byte while BUSY = 1 and the stream has one, else a free value
(U5, log 6). -/
def State.txByte (s : State) (cfg : Config) : Byte :=
  if s.busy then (s.latchedStream cfg)[s.pos]?.getD (Config.freeByte .txByte s.draw)
  else Config.freeByte .txByte s.draw

end Sys2Proof.Machine
end

