-- ==== Sys2Proof/Machine/Dispatch.lean ====
section
/-! DEFINITION. One arm per command (spec/30_encoding.md R63): the ACCEPT of the command (spec/10_state.md R35). -/

namespace Sys2Proof.Machine

/-- The meaning of a command the host presents. -/
def exec (i : Instr) (s : State) : Host.Outcome State Fault Refusal :=
  match i with
  | .sendStart c => Sys2Proof.Machine.execSendStart c s
  | .sendEnd c => Sys2Proof.Machine.execSendEnd c s
  | .init c => Sys2Proof.Machine.execInit c s
  | .setOne c => Sys2Proof.Machine.execSetOne c s
  | .setAll c => Sys2Proof.Machine.execSetAll c s
  | .turnOff c => Sys2Proof.Machine.execTurnOff c s
  | .turnAllOff c => Sys2Proof.Machine.execTurnAllOff c s

end Sys2Proof.Machine
end

