-- ==== Sys2Proof/Machine/Events.lean ====
section
/-! DEFINITION. Which event a step takes (spec/10_state.md R35, R36, R39; spec/60_exceptions.md R131, R133, R137). -/

namespace Sys2Proof.Machine

/-- What the inputs and BUSY make of a step. -/
inductive Event
  /-- The configuration breaks R9: no run exists. -/
  | noRun
  /-- RESET is asserted (R150). -/
  | reset
  /-- BUSY = 1 and the transport accepts a byte (R36). -/
  | emit
  /-- BUSY = 0 and a command is transferred (R35). -/
  | accept (i : Instr)
  /-- BUSY = 0 and a reserved word is at the handshake (R64). -/
  | reserved (op : Byte)
  /-- No event is enabled: the block waits (R33, R137, log 8). -/
  | wait
  deriving DecidableEq, Repr

/-- The event of the step. RESET excludes the others (R133); ACCEPT needs BUSY = 0 and EMIT BUSY = 1 (R39). While
BUSY = 1 the command port is not sampled, a reserved word on it included (R33, R157, log 9). -/
def State.event (s : State) (cfg : Config) : Event :=
  if cfg.valid then
    if s.port.reset then .reset
    else if s.busy then
      if s.port.txReady then .emit else .wait
    else if s.port.cmdValid then
      match decode s.port.cmdWord with
      | .command i => .accept i
      | .reserved op => .reserved op
    else .wait
  else .noRun

/-- `s` with the word of `nbits` bits on the command port of an idle block, so that the next step accepts it (R33,
R35): no RESET in that step, BUSY and so POS 0 (R29 a). A word too long for the port is not placed (log 17, log 20). -/
def State.present (s : State) (nbits w : Nat) : State :=
  match tableWord nbits w with
  | none => s
  | some cw =>
    { s with busy := false, pos := 0, port := { s.port with reset := false, cmdValid := true, cmdWord := cw } }

end Sys2Proof.Machine
end

