-- ==== Sys2Proof/Machine/Sequencer.lean ====
section
/-! DEFINITION. One step of the block as built with a given configuration, which is an argument (spec/00_scope.md R5,
R8): the event the inputs call for, then the outside's move (spec/10_state.md R39). -/

namespace Sys2Proof.Machine

/-- One step of the block built with `cfg`: exactly one of RESET, EMIT, ACCEPT, or waiting where none is enabled (R39,
log 8). An invalid configuration has no run (R9, R131 b, log 11). -/
def stepWith (cfg : Config) (s : State) : Result :=
  match s.event cfg with
  | .noRun => .refused .invalidConfig
  | .reset => thenAdvance (.next s.afterReset)
  | .emit => thenAdvance (emit cfg s)
  | .accept i => thenAdvance (exec i s)
  | .reserved op => .refused (.reservedOpcode op)
  | .wait => thenAdvance (.next s)

end Sys2Proof.Machine
end

