-- ==== Sys2Proof/Machine/Step.lean ====
section
/-! DEFINITION. One step of the machine the host runs: the block of `Config.built`, which is any valid build
(spec/00_scope.md R8, R9). -/

namespace Sys2Proof.Machine

/-- One step (R39). -/
def step (s : State) : Host.Outcome State Fault Refusal := stepWith Config.built s

/-- `s` with the word on the command port, so that the next step runs it (log 17). -/
def State.withFetchWord (s : State) (nbits w : Nat) : State := s.present nbits w

end Sys2Proof.Machine
end

