-- ==== Sys2Proof/Machine/Assembler.lean ====
section
/-! DEFINITION. The assembler's text (spec/30_encoding.md R67, R68; decision D22): one command a line, a mnemonic, for
setOne and setAll the operands r=, g=, b=, i=, and comments from a semicolon. What R67 leaves open of spaces and digits
is log 19. -/

namespace Sys2Proof.Machine

/-- A line's meaning: nothing (empty or comment only), a command, or no assembler text. -/
inductive Line
  | blank
  | command (i : Instr)
  | bad
  deriving DecidableEq, Repr

/-- A space, a tab or a carriage return. -/
def isBlank (c : Char) : Bool := c == ' ' || c == '\t' || c == '\r'

/-- The text without blanks at either end. -/
def trimBlanks (cs : List Char) : List Char :=
  ((cs.dropWhile isBlank).reverse.dropWhile isBlank).reverse

/-- The pieces of a text between its commas. -/
def splitCommas (cs : List Char) : List (List Char) :=
  match cs with
  | [] => [[]]
  | c :: rest =>
    if c = ',' then [] :: splitCommas rest
    else
      match splitCommas rest with
      | [] => [[c]]
      | piece :: more => (c :: piece) :: more

/-- The value of a hexadecimal digit. -/
def hexDigit (c : Char) : Option Nat :=
  if '0'.toNat ≤ c.toNat ∧ c.toNat ≤ '9'.toNat then some (c.toNat - '0'.toNat)
  else if 'A'.toNat ≤ c.toNat ∧ c.toNat ≤ 'F'.toNat then some (c.toNat - 'A'.toNat + 10)
  else if 'a'.toNat ≤ c.toNat ∧ c.toNat ≤ 'f'.toNat then some (c.toNat - 'a'.toNat + 10)
  else none

/-- The number a digit text stands for in a base, continued from `acc`. -/
def digitsValue (base acc : Nat) (cs : List Char) : Option Nat :=
  match cs with
  | [] => some acc
  | c :: rest =>
    match hexDigit c with
    | some d => if d < base then digitsValue base (acc * base + d) rest else none
    | none => none

/-- The byte a number is, if it is one. -/
def asByte (n : Option Nat) : Option Byte :=
  match n with
  | some v => if v < 256 then some (BitVec.ofNat 8 v) else none
  | none => none

/-- A byte in hexadecimal (0x..) or decimal (R67). -/
def parseByte (cs : List Char) : Option Byte :=
  match cs with
  | '0' :: 'x' :: d :: ds => asByte (digitsValue 16 0 (d :: ds))
  | d :: ds => asByte (digitsValue 10 0 (d :: ds))
  | [] => none

/-- One operand `<name>=<byte>`. -/
def parseOperand (name : Char) (cs : List Char) : Option Byte :=
  match trimBlanks cs with
  | n :: '=' :: ds => if n = name then parseByte ds else none
  | _ => none

/-- The four operands in their order, all required (R67). -/
def parseColor (cs : List Char) : Option Color :=
  match splitCommas cs with
  | [r, g, b, i] =>
    match parseOperand 'r' r, parseOperand 'g' g, parseOperand 'b' b, parseOperand 'i' i with
    | some vr, some vg, some vb, some vi => some ⟨vr, vg, vb, vi⟩
    | _, _, _, _ => none
  | _ => none

/-- A command that takes no operand: zero fields (R65, R67). -/
def plainLine (operands : List Char) (i : Color → Instr) : Line :=
  if operands = [] then .command (i Color.zero) else .bad

/-- A command that takes a color. -/
def colorLine (operands : List Char) (i : Color → Instr) : Line :=
  match parseColor operands with
  | some c => .command (i c)
  | none => .bad

/-- A line of assembler text. -/
def parseLine (cs : List Char) : Line :=
  let text := trimBlanks (cs.takeWhile (· != ';'))
  let name := text.takeWhile (fun c => !isBlank c)
  let operands := trimBlanks (text.dropWhile (fun c => !isBlank c))
  if name = [] then .blank
  else if name = ['s', 'e', 'n', 'd', 'S', 't', 'a', 'r', 't'] then plainLine operands .sendStart
  else if name = ['s', 'e', 'n', 'd', 'E', 'n', 'd'] then plainLine operands .sendEnd
  else if name = ['i', 'n', 'i', 't'] then plainLine operands .init
  else if name = ['s', 'e', 't', 'O', 'n', 'e'] then colorLine operands .setOne
  else if name = ['s', 'e', 't', 'A', 'l', 'l'] then colorLine operands .setAll
  else if name = ['t', 'u', 'r', 'n', 'O', 'f', 'f'] then plainLine operands .turnOff
  else if name = ['t', 'u', 'r', 'n', 'A', 'l', 'l', 'O', 'f', 'f'] then plainLine operands .turnAllOff
  else .bad

/-- The words of a program, one command a line, in the order of the lines (R67). None where a line is no text of the
assembler's. -/
def assemble (lines : List (List Char)) : Option (List CmdWord) :=
  match lines with
  | [] => some []
  | line :: rest =>
    match parseLine line, assemble rest with
    | .blank, some ws => some ws
    | .command i, some ws => some (encode i :: ws)
    | _, _ => none

/-! ### Writing a command -/

/-- A digit of 0 to 15. -/
def digitChar (n : Nat) : Char := Char.ofNat (if n < 10 then '0'.toNat + n else 'A'.toNat + (n - 10))

/-- A byte as 0x and two digits. -/
def byteText (v : Byte) : List Char := ['0', 'x', digitChar (v.toNat / 16), digitChar (v.toNat % 16)]

/-- The operands of setOne and setAll. -/
def colorText (c : Color) : List Char :=
  ' ' :: 'r' :: '=' :: byteText c.r ++ ',' :: ' ' :: 'g' :: '=' :: byteText c.g ++ ',' :: ' ' :: 'b' :: '=' ::
    byteText c.b ++ ',' :: ' ' :: 'i' :: '=' :: byteText c.i

/-- The line that stands for a command; the ignored fields of a command without operands are not written (R67). -/
def lineText (i : Instr) : List Char :=
  match i with
  | .sendStart _ => ['s', 'e', 'n', 'd', 'S', 't', 'a', 'r', 't']
  | .sendEnd _ => ['s', 'e', 'n', 'd', 'E', 'n', 'd']
  | .init _ => ['i', 'n', 'i', 't']
  | .setOne c => ['s', 'e', 't', 'O', 'n', 'e'] ++ colorText c
  | .setAll c => ['s', 'e', 't', 'A', 'l', 'l'] ++ colorText c
  | .turnOff _ => ['t', 'u', 'r', 'n', 'O', 'f', 'f']
  | .turnAllOff _ => ['t', 'u', 'r', 'n', 'A', 'l', 'l', 'O', 'f', 'f']

end Sys2Proof.Machine
end

