-- ==== Sys2Proof/Machine/History.lean ====
section
/-! DEFINITION. The window discipline as a recogniser of command histories (spec/70_reset_and_hazards.md R152, R154,
R155). A contract of the caller's: the block never reads it. -/

namespace Sys2Proof.Machine

/-- init, setAll and turnAllOff emit both delimiters themselves (spec/00_scope.md, Glossary). -/
def selfContained (i : Instr) : Bool :=
  match i with
  | .sendStart _ => false
  | .sendEnd _ => false
  | .init _ => true
  | .setOne _ => false
  | .setAll _ => true
  | .turnOff _ => false
  | .turnAllOff _ => true

/-- setOne and turnOff emit a command frame and no delimiter (R155). -/
def fragment (i : Instr) : Bool :=
  match i with
  | .sendStart _ => false
  | .sendEnd _ => false
  | .init _ => false
  | .setOne _ => true
  | .setAll _ => false
  | .turnOff _ => true
  | .turnAllOff _ => false

/-- Where a history stands in R154's grammar. -/
inductive Place
  /-- No command yet. -/
  | start
  /-- init came first and every window is closed. -/
  | outside
  /-- init came first and a window is open. -/
  | inside
  /-- The grammar is broken. -/
  | broken
  deriving DecidableEq, Repr

/-- The place after one more command. -/
def Place.after (p : Place) (i : Instr) : Place :=
  match p, i with
  | .start, .init _ => .outside
  | .start, _ => .broken
  | .outside, .sendStart _ => .inside
  | .outside, j => if selfContained j then .outside else .broken
  | .inside, .sendEnd _ => .outside
  | .inside, j => if fragment j then .inside else .broken
  | .broken, _ => .broken

/-- The place a whole history leads to. -/
def placeOf (history : List Instr) : Place := history.foldl Place.after .start

/-- The first command after RESET was init: the premise of every claim about the devices' condition (R152). -/
def initFirst (history : List Instr) : Bool :=
  match history with
  | .init _ :: _ => true
  | _ => false

end Sys2Proof.Machine
end

