-- ==== Sys2Proof/Safety.lean ====
section
/-! DEFINITION. The terms claims use: the invariants of the block and of its TX trace, runs, schedules, waiting and the
end of a run, and the grammar of command histories. -/

namespace Sys2Proof.Machine

/-! ### Invariants -/

/-- The invariant of R29, for one configuration: (c) it is valid, (a) POS = 0 while BUSY = 0, (b) while BUSY = 1 OP is a
defined opcode and POS is below the length of its stream. -/
def State.Inv (s : State) (cfg : Config) : Prop :=
  cfg.valid = true ∧
  (s.busy = false → s.pos = 0) ∧
  (s.busy = true → ∃ i, s.latched = some i ∧ s.pos < (stream cfg i).length)

/-- The bytes of a list of commands, each complete, in order (R48). -/
def streams (cfg : Config) (cmds : List Instr) : List Byte := cmds.flatMap (stream cfg)

/-- The part of the TX trace sent since the last RESET. -/
def State.sinceReset (s : State) : List Byte := s.tx.drop s.txMark

/-- R48 for the commands accepted since the last RESET: while idle, TX since then is their streams in order of
acceptance; while busy, the last of them is in flight and has contributed its first POS bytes. -/
def State.TraceExact (s : State) (cfg : Config) : Prop :=
  s.txMark ≤ s.tx.length ∧
  match s.busy with
  | false => s.sinceReset = streams cfg s.history
  | true => ∃ earlier i, s.history = earlier ++ [i] ∧ s.latched = some i ∧
      s.sinceReset = streams cfg earlier ++ (stream cfg i).take s.pos

/-! ### Runs -/

/-- The block built with `cfg`, as the host reads a machine. `core` is that of `Config.built`. -/
def coreWith (cfg : Config) : Host.Core :=
  { State := State, Fault := Fault, Refusal := Refusal, step := stepWith cfg, reset := State.reset }

/-- `n` steps of the block built with `cfg`. -/
abbrev run (cfg : Config) (n : Nat) (s : State) : Result := Host.Core.run (coreWith cfg) n s

/-- `n` EMIT events in a row: the transport accepts each time. -/
def emits (cfg : Config) (n : Nat) (s : State) : Result :=
  match n with
  | 0 => .next s
  | k + 1 =>
    match emit cfg s with
    | .next t => emits cfg k t
    | .fault f => .fault f
    | .refused x => .refused x

/-- One command run to its end: its ACCEPT, then one EMIT per byte (the template of spec/41_delimiters.md). -/
def issue (cfg : Config) (i : Instr) (s : State) : Result :=
  match exec i s with
  | .next t => emits cfg (stream cfg i).length t
  | .fault f => .fault f
  | .refused x => .refused x

/-- A list of commands, each presented once BUSY is 0 (spec/95_test_vectors.md, Part 3). -/
def issueAll (cfg : Config) (cmds : List Instr) (s : State) : Result :=
  match cmds with
  | [] => .next s
  | i :: rest =>
    match issue cfg i s with
    | .next t => issueAll cfg rest t
    | .fault f => .fault f
    | .refused x => .refused x

/-- From `t`, just after an ACCEPT, the EMIT steps put exactly these bytes on the wire: after `k` of them the first `k`
bytes are out, BUSY is 1 and POS is `k`; the last one clears BUSY and POS. OP and COLOR stay. -/
def EmitsExactly (cfg : Config) (t : State) (bytes : List Byte) : Prop :=
  (∀ k < bytes.length, ∃ u, emits cfg k t = .next u ∧ u.tx = t.tx ++ bytes.take k ∧ u.busy = true ∧ u.pos = k ∧
    u.op = t.op ∧ u.color = t.color) ∧
  ∃ u, emits cfg bytes.length t = .next u ∧ u.tx = t.tx ++ bytes ∧ u.busy = false ∧ u.pos = 0 ∧
    u.op = t.op ∧ u.color = t.color

/-- A command at `s`, in the block built with `cfg`, runs as its rule says: ACCEPT latches the opcode and the color and
sets POS and BUSY with no byte sent, and EMIT then sends exactly `bytes`. -/
def RunsAs (cfg : Config) (s : State) (i : Instr) (opcode : Byte) (c : Color) (bytes : List Byte) : Prop :=
  ∃ t, exec i s = .next t ∧ t.op = opcode ∧ t.color = c ∧ t.pos = 0 ∧ t.busy = true ∧ t.tx = s.tx ∧
    EmitsExactly cfg t bytes

/-! ### Schedules -/

/-- The inputs of this step and of the listed ones after it. -/
def State.inputs (s : State) : List Inputs := s.port :: s.later

/-- RESET is asserted in none of these steps. -/
def noReset (ins : List Inputs) : Bool := ins.all (fun p => !p.reset)

/-- In how many of these steps the transport is ready. TRANSPORT_LIVE (D25) says that this count grows without bound as
a schedule goes on; a claim of completion says how much of it it needs. -/
def acceptances (ins : List Inputs) : Nat := ins.countP (·.txReady)

/-- The host presents a command in none of these steps. -/
def noCommand (ins : List Inputs) : Bool := ins.all (fun p => !p.cmdValid)

/-- Stuck: BUSY = 1 and the transport never accepts, in this step or a later one (R131 c, R137, U6). RESET is still
enabled, in any step of the schedule; after the last listed input the transport is not ready either (log 7). -/
def State.Stuck (s : State) : Prop :=
  s.busy = true ∧ acceptances s.inputs = 0

/-- A hang: the run from here never ends and BUSY stays 1 in it (R131 d). -/
def State.Hangs (s : State) (cfg : Config) : Prop := ∀ n, ∃ t, run cfg n s = .next t ∧ t.busy = true

/-- The run ends well: BUSY = 0 and the host presents no further command (R143), RESET or not. A refused run has no
state at all, so none is marked here. -/
def State.EndedWell (s : State) : Prop :=
  s.busy = false ∧ noCommand s.inputs = true

/-! ### The grammar of command histories (R154) -/

/-- `Item`: a self-contained command, or a window of fragments. -/
inductive Item : List Instr → Prop
  | whole (i : Instr) (h : selfContained i = true) : Item [i]
  | window (a b : Color) (fs : List Instr) (h : ∀ f ∈ fs, fragment f = true) :
      Item (.sendStart a :: (fs ++ [.sendEnd b]))

/-- `Item*`. -/
inductive Items : List Instr → Prop
  | none : Items []
  | more (item rest : List Instr) (h : Item item) (t : Items rest) : Items (item ++ rest)

/-- A complete well-formed history: `init Item*`, so it does not end inside a window. -/
def CompleteHistory (h : List Instr) : Prop := ∃ c items, h = .init c :: items ∧ Items items

/-- A history that keeps the grammar and ends inside a window (log 15). -/
def OpenHistory (h : List Instr) : Prop :=
  ∃ before a fs, CompleteHistory before ∧ (∀ f ∈ fs, fragment f = true) ∧ h = before ++ .sendStart a :: fs

/-- A well-formed history (log 15). -/
def WellFormedHistory (h : List Instr) : Prop := CompleteHistory h ∨ OpenHistory h

end Sys2Proof.Machine
end

