-- ==== Sys2Proof/Certificates/Slice0/Obligations.lean ====
section
/-! DEFINITION. The statements put to the provers. The configuration is an argument (R5, R8), so every one is covered,
the machine's own `step`, which is `stepWith Config.built`, among them. Every schedule is covered, since State lists the
inputs of the steps to come. -/

open Sys2Proof Sys2Proof.Machine

/-! ### Reset -/

/-- R30, R150: RESET, in any state and for any valid configuration, leaves BUSY and POS 0 and the TX trace as it was; the
initial state of a model is that with an empty TX trace. OP and COLOR are unspecified, so nothing is said of them. -/
def Obligations.ResetLeavesBlockIdle : Prop :=
  (State.reset.busy = false ∧ State.reset.pos = 0 ∧ State.reset.tx = []) ∧
  ∀ (cfg : Config) (s : State), cfg.valid = true → s.port.reset = true →
    ∃ t, stepWith cfg s = .next t ∧ t.busy = false ∧ t.pos = 0 ∧ t.tx = s.tx

/-- R151: RESET aborts the command in flight. The bytes sent stay, the block is idle, and whichever command is accepted
next runs from its own first byte, so that the rest of the aborted stream is never sent. -/
def Obligations.ResetAbortsCommandInFlight : Prop :=
  ∀ (cfg : Config) (s : State), cfg.valid = true → s.busy = true → s.port.reset = true →
    ∃ t, stepWith cfg s = .next t ∧ t.tx = s.tx ∧ t.busy = false ∧ t.pos = 0 ∧
      ∀ i : Instr, RunsAs cfg t i i.opcode i.color (stream cfg i)

/-- When RESET is chosen, neither ACCEPT nor EMIT happens in that step (R133), whatever the host presents and whether or
not the transport is ready. That this holds of a reserved word on the port too, which is then not refused, is the model's
reading (log 10): R133 names ACCEPT and EMIT only, and R131 (a) refuses such a word. -/
def Obligations.ResetExcludesOtherEvents : Prop :=
  ∀ (cfg : Config) (s : State) (v : Bool) (w : CmdWord) (r : Bool), s.port.reset = true →
    stepWith cfg { s with port := { s.port with cmdValid := v, cmdWord := w, txReady := r } } = stepWith cfg s ∧
    (cfg.valid = true → ∃ t, stepWith cfg s = .next t ∧ t.tx = s.tx ∧ t.busy = false)

/-- R9, R131 (b): a configuration is valid when N and FRAME_SIZE are at least 1 (its bytes are bytes by their type); with an
invalid one every step is refused, so that no run takes even one step. -/
def Obligations.InvalidConfigurationHasNoRun : Prop :=
  (∀ c : Config, c.valid = true ↔ 1 ≤ c.chainLength ∧ 1 ≤ c.frameSize) ∧
  ∀ (cfg : Config) (s : State), cfg.valid = false →
    stepWith cfg s = .refused .invalidConfig ∧ ∀ n : Nat, run cfg (n + 1) s = .refused .invalidConfig

/-! ### The events -/

/-- R35: an idle block that is presented a word with a defined opcode latches it, sets POS 0 and BUSY 1, and sends no
byte; a word with a reserved opcode is refused. -/
def Obligations.AcceptLatchesPresentedWord : Prop :=
  ∀ (cfg : Config) (s : State), cfg.valid = true → s.port.reset = false → s.busy = false → s.port.cmdValid = true →
    ((s.port.cmdWord.extractLsb' 32 8).toNat < 7 → ∃ t, stepWith cfg s = .next t ∧
      t.op = s.port.cmdWord.extractLsb' 32 8 ∧ t.color.r = s.port.cmdWord.extractLsb' 24 8 ∧
      t.color.g = s.port.cmdWord.extractLsb' 16 8 ∧ t.color.b = s.port.cmdWord.extractLsb' 8 8 ∧
      t.color.i = s.port.cmdWord.extractLsb' 0 8 ∧ t.pos = 0 ∧ t.busy = true ∧ t.tx = s.tx) ∧
    (7 ≤ (s.port.cmdWord.extractLsb' 32 8).toNat →
      stepWith cfg s = .refused (.reservedOpcode (s.port.cmdWord.extractLsb' 32 8)))

/-- R36: when BUSY = 1 and the transport accepts, the byte of the stream at POS goes out, and POS advances by one, or
at the last byte POS and BUSY return to 0; when the transport does not accept, nothing is sent and BUSY stays 1. -/
def Obligations.EmitSendsByteAtPos : Prop :=
  ∀ (cfg : Config) (s : State) (i : Instr), s.Inv cfg → s.busy = true → s.latched = some i → s.port.reset = false →
    (s.port.txReady = true → ∃ b t, (stream cfg i)[s.pos]? = some b ∧ stepWith cfg s = .next t ∧ t.tx = s.tx ++ [b] ∧
      t.op = s.op ∧ t.color = s.color ∧
      (s.pos + 1 = (stream cfg i).length → t.pos = 0 ∧ t.busy = false) ∧
      (s.pos + 1 ≠ (stream cfg i).length → t.pos = s.pos + 1 ∧ t.busy = true)) ∧
    (s.port.txReady = false → ∀ t, stepWith cfg s = .next t → t.tx = s.tx ∧ t.busy = true ∧ t.pos = s.pos)

/-- A step of an idle block with a command on its port and no RESET is `exec` of the decoded command, and then the outside
moves on (`State.advance`, the model's own, log 7): so it is for `step`, whose build is valid (log 2), for the block of
every valid configuration, and for a word placed by `withFetchWord` (log 17). -/
def Obligations.StepRunsDecodedCommand : Prop :=
  (∀ (s : State) (i : Instr), s.port.reset = false → s.busy = false → s.port.cmdValid = true →
    decode s.port.cmdWord = .command i →
    step s = thenAdvance (exec i s) ∧ ∀ cfg : Config, cfg.valid = true → stepWith cfg s = thenAdvance (exec i s)) ∧
  ∀ (s : State) (w : Nat) (i : Instr), decodeTableWord 40 w = some i →
    step (s.withFetchWord 40 w) = thenAdvance (exec i (s.withFetchWord 40 w)) ∧
    ∀ cfg : Config, cfg.valid = true →
      stepWith cfg (s.withFetchWord 40 w) = thenAdvance (exec i (s.withFetchWord 40 w))

/-- The frame of all seven commands (sendStart, sendEnd, init, setOne, setAll, turnOff, turnAllOff): `exec` sends no
byte and changes nothing but OP, COLOR, POS, BUSY and the history, and a command presented while BUSY = 1 changes
nothing at all. There is no memory (R40). That a busy `exec` answers the same state is the model's form (log 13). -/
def Obligations.ExecFrame : Prop :=
  ∀ (i : Instr) (s t : State), exec i s = .next t →
    t.tx = s.tx ∧ t.txMark = s.txMark ∧ t.port = s.port ∧ t.later = s.later ∧ t.draw = s.draw ∧
    (s.busy = true → t = s) ∧ (s.busy = false → t.history = s.history ++ [i])

/-- The frame of EMIT: TX, POS and BUSY may change, nothing else. -/
def Obligations.EmitFrame : Prop :=
  ∀ (cfg : Config) (s t : State), emit cfg s = .next t →
    t.op = s.op ∧ t.color = s.color ∧ t.history = s.history ∧ t.txMark = s.txMark ∧
    t.port = s.port ∧ t.later = s.later ∧ t.draw = s.draw ∧ (t.tx = s.tx ∨ ∃ b, t.tx = s.tx ++ [b])

/-! ### The seven commands -/

/-- R90: sendStart emits FRAME_SIZE start markers, from any idle state and whatever its color fields are. -/
def Obligations.SendStartEmitsStartDelimiter : Prop :=
  encode (.sendStart ⟨0, 0, 0, 0⟩) = 0x0000000000#40 ∧
  (∀ w : CmdWord, w.extractLsb' 32 8 = 0x00#8 → decode w = .command (.sendStart (colorField w))) ∧
  (∀ (cfg : Config) (s : State) (c : Color), cfg.valid = true → s.busy = false →
    RunsAs cfg s (.sendStart c) 0x00 c (List.replicate cfg.frameSize cfg.startMarker)) ∧
  ∀ (s : State) (c : Color) (n : Nat) (p : Bool) (f : Byte), 1 ≤ n →
    s.busy = false → RunsAs (Config.reference n p f) s (.sendStart c) 0x00 c [0x00, 0x00, 0x00, 0x00]

/-- R91: sendEnd emits FRAME_SIZE end markers, from any idle state and whatever its color fields are. -/
def Obligations.SendEndEmitsEndDelimiter : Prop :=
  encode (.sendEnd ⟨0, 0, 0, 0⟩) = 0x0100000000#40 ∧
  (∀ w : CmdWord, w.extractLsb' 32 8 = 0x01#8 → decode w = .command (.sendEnd (colorField w))) ∧
  (∀ (cfg : Config) (s : State) (c : Color), cfg.valid = true → s.busy = false →
    RunsAs cfg s (.sendEnd c) 0x01 c (List.replicate cfg.frameSize cfg.endMarker)) ∧
  ∀ (s : State) (c : Color) (n : Nat) (p : Bool) (f : Byte), 1 ≤ n →
    s.busy = false → RunsAs (Config.reference n p f) s (.sendEnd c) 0x01 c [0xFF, 0xFF, 0xFF, 0xFF]

/-- R100: init emits a start delimiter, N frames of the enable flag with the masked minimum intensity and zero color,
and an end delimiter; its worked example. -/
def Obligations.InitEmitsDarkFrames : Prop :=
  encode (.init ⟨0, 0, 0, 0⟩) = 0x0200000000#40 ∧
  (∀ w : CmdWord, w.extractLsb' 32 8 = 0x02#8 → decode w = .command (.init (colorField w))) ∧
  (∀ (cfg : Config) (s : State) (c : Color), cfg.valid = true → s.busy = false →
    RunsAs cfg s (.init c) 0x02 c (List.replicate cfg.frameSize cfg.startMarker ++
      (List.replicate cfg.chainLength
        [cfg.enableFlag ||| (cfg.minIntensity &&& cfg.encMask), 0x00, 0x00, 0x00]).flatten ++
      List.replicate cfg.frameSize cfg.endMarker)) ∧
  ∀ (s : State) (c : Color) (p : Bool) (f : Byte), s.busy = false →
    RunsAs (Config.reference 3 p f) s (.init c) 0x02 c
      [0x00, 0x00, 0x00, 0x00, 0xE1, 0x00, 0x00, 0x00, 0xE1, 0x00, 0x00, 0x00, 0xE1, 0x00, 0x00, 0x00,
       0xFF, 0xFF, 0xFF, 0xFF]

/-- R110: setOne emits one frame of the enable flag, the intensity under the set path's mask, blue, green and red, and
no delimiter; its worked example. -/
def Obligations.SetOneEmitsColorFrame : Prop :=
  (∀ w : CmdWord, w.extractLsb' 32 8 = 0x03#8 → decode w = .command (.setOne (colorField w))) ∧
  (∀ (cfg : Config) (s : State) (c : Color), cfg.valid = true → s.busy = false →
    RunsAs cfg s (.setOne c) 0x03 c [cfg.enableFlag ||| (c.i &&& cfg.setMask), c.b, c.g, c.r]) ∧
  ∀ (s : State) (n : Nat) (p : Bool) (f : Byte), 1 ≤ n → s.busy = false →
    decode 0x0310203005 = .command (.setOne ⟨0x10, 0x20, 0x30, 0x05⟩) ∧
    RunsAs (Config.reference n p f) s (.setOne ⟨0x10, 0x20, 0x30, 0x05⟩) 0x03 ⟨0x10, 0x20, 0x30, 0x05⟩
      [0xE5, 0x30, 0x20, 0x10]

/-- R111: setAll emits a start delimiter, the frame of its color once for each of the N slots, and an end delimiter;
its worked example. -/
def Obligations.SetAllEmitsColorFrames : Prop :=
  (∀ w : CmdWord, w.extractLsb' 32 8 = 0x04#8 → decode w = .command (.setAll (colorField w))) ∧
  (∀ (cfg : Config) (s : State) (c : Color), cfg.valid = true → s.busy = false →
    RunsAs cfg s (.setAll c) 0x04 c (List.replicate cfg.frameSize cfg.startMarker ++
      (List.replicate cfg.chainLength [cfg.enableFlag ||| (c.i &&& cfg.setMask), c.b, c.g, c.r]).flatten ++
      List.replicate cfg.frameSize cfg.endMarker)) ∧
  ∀ (s : State) (p : Bool) (f : Byte), s.busy = false →
    decode 0x0410203005 = .command (.setAll ⟨0x10, 0x20, 0x30, 0x05⟩) ∧
    RunsAs (Config.reference 3 p f) s (.setAll ⟨0x10, 0x20, 0x30, 0x05⟩) 0x04 ⟨0x10, 0x20, 0x30, 0x05⟩
      [0x00, 0x00, 0x00, 0x00, 0xE5, 0x30, 0x20, 0x10, 0xE5, 0x30, 0x20, 0x10, 0xE5, 0x30, 0x20, 0x10,
       0xFF, 0xFF, 0xFF, 0xFF]

/-- R121 and R120: turnOff emits one off frame, with the sleep flag under POWER_SAVING and the start flag without it,
and no delimiter; its worked examples, START_FLAG named. -/
def Obligations.TurnOffEmitsOffFrame : Prop :=
  encode (.turnOff ⟨0, 0, 0, 0⟩) = 0x0500000000#40 ∧
  (∀ w : CmdWord, w.extractLsb' 32 8 = 0x05#8 → decode w = .command (.turnOff (colorField w))) ∧
  (∀ (cfg : Config) (s : State) (c : Color), cfg.valid = true → s.busy = false →
    (cfg.powerSaving = true → RunsAs cfg s (.turnOff c) 0x05 c
      [cfg.sleepFlag ||| (cfg.minIntensity &&& cfg.encMask), 0x00, 0x00, 0x00]) ∧
    (cfg.powerSaving = false → RunsAs cfg s (.turnOff c) 0x05 c
      [cfg.startFlag ||| (cfg.minIntensity &&& cfg.encMask), 0x00, 0x00, 0x00])) ∧
  ∀ (s : State) (c : Color) (n : Nat) (p : Bool) (f : Byte), 1 ≤ n →
    s.busy = false →
    (p = true → RunsAs (Config.reference n p f) s (.turnOff c) 0x05 c [0xA1, 0x00, 0x00, 0x00]) ∧
    (p = false → RunsAs (Config.reference n p f) s (.turnOff c) 0x05 c [f ||| 0x01, 0x00, 0x00, 0x00])

/-- R122: turnAllOff emits a start delimiter, the off frame once for each of the N slots, and an end delimiter; its
worked example. -/
def Obligations.TurnAllOffEmitsOffFrames : Prop :=
  encode (.turnAllOff ⟨0, 0, 0, 0⟩) = 0x0600000000#40 ∧
  (∀ w : CmdWord, w.extractLsb' 32 8 = 0x06#8 → decode w = .command (.turnAllOff (colorField w))) ∧
  (∀ (cfg : Config) (s : State) (c : Color), cfg.valid = true → s.busy = false →
    RunsAs cfg s (.turnAllOff c) 0x06 c (List.replicate cfg.frameSize cfg.startMarker ++
      (List.replicate cfg.chainLength
        [(if cfg.powerSaving then cfg.sleepFlag else cfg.startFlag) |||
          (cfg.minIntensity &&& cfg.encMask), 0x00, 0x00, 0x00]).flatten ++
      List.replicate cfg.frameSize cfg.endMarker)) ∧
  ∀ (s : State) (c : Color) (f : Byte), s.busy = false →
    RunsAs (Config.reference 2 true f) s (.turnAllOff c) 0x06 c
      [0x00, 0x00, 0x00, 0x00, 0xA1, 0x00, 0x00, 0x00, 0xA1, 0x00, 0x00, 0x00, 0xFF, 0xFF, 0xFF, 0xFF]

/-! ### Streams and frames -/

/-- R80: the frame encoder, and its worked example. -/
def Obligations.EncoderLaysOutFrame : Prop :=
  (∀ (flag : Byte) (c : Color) (m : Byte), enc flag c m = [flag ||| (c.i &&& m), c.b, c.g, c.r]) ∧
  enc 0xE0 ⟨0x10, 0x20, 0x30, 0x05⟩ 0x3F = [0xE5, 0x30, 0x20, 0x10]

/-- The laws the spec derives from R80 of the byte at index 0 of a command frame ("Byte 0 laws, for every flag f, intensity
I and mask m"): the flag's bits survive; it depends on the color only through I & m & ~f; bit 5 of the flag hides the
difference of the two masks, as 0xE0 and 0xA0 do; a nonzero flag gives a nonzero byte; it can be 0xFF. -/
def Obligations.ByteZeroLaws : Prop :=
  (∀ (f : Byte) (c : Color) (m : Byte), ∃ b, (enc f c m)[0]? = some b ∧ b &&& f = f ∧ (f ≠ 0x00 → b ≠ 0x00)) ∧
  (∀ (f : Byte) (c d : Color) (m : Byte), c.i &&& m &&& ~~~f = d.i &&& m &&& ~~~f →
    (enc f c m)[0]? = (enc f d m)[0]?) ∧
  (∀ (f : Byte) (c : Color), f.getLsbD 5 = true → (enc f c 0x3F)[0]? = (enc f c 0x1F)[0]?) ∧
  (∀ c : Color, (enc 0xE0 c 0x3F)[0]? = (enc 0xE0 c 0x1F)[0]? ∧ (enc 0xA0 c 0x3F)[0]? = (enc 0xA0 c 0x1F)[0]?) ∧
  ∀ c : Color, c.i = 0x1F → (enc 0xE0 c 0x3F)[0]? = some 0xFF

/-- What the spec derives from R87 for the set path: under the flag 0xE0 both masks give the same frame; under 0xC0, whose
bit 5 is 0, the two frames of an intensity 0x20 differ in byte 0. -/
def Obligations.SetPathAtReferenceFlag : Prop :=
  (∀ c : Color, enc 0xE0 c 0x3F = enc 0xE0 c 0x1F) ∧
  ∀ c : Color, c.i = 0x20 →
    enc 0xC0 c 0x3F = [0xE0, c.b, c.g, c.r] ∧ enc 0xC0 c 0x1F = [0xC0, c.b, c.g, c.r]

/-- What the spec derives from R80 and R84 for callers ("A command frame can look like an end delimiter"): in the
reference configuration white with the low five intensity bits set gives the bytes of an end delimiter. -/
def Obligations.FrameCanEqualEndDelimiter : Prop :=
  ∀ (n : Nat) (p : Bool) (f i : Byte), i &&& 0x1F = 0x1F →
    setFrame (Config.reference n p f) ⟨0xFF, 0xFF, 0xFF, i⟩ = delimEnd (Config.reference n p f)

/-- The lengths R31's table gives, for every color; none is 0 under a valid configuration. -/
def Obligations.StreamLengths : Prop :=
  ∀ (cfg : Config) (c : Color),
    (stream cfg (.sendStart c)).length = cfg.frameSize ∧
    (stream cfg (.sendEnd c)).length = cfg.frameSize ∧
    (stream cfg (.init c)).length = 2 * cfg.frameSize + 4 * cfg.chainLength ∧
    (stream cfg (.setOne c)).length = 4 ∧
    (stream cfg (.setAll c)).length = 2 * cfg.frameSize + 4 * cfg.chainLength ∧
    (stream cfg (.turnOff c)).length = 4 ∧
    (stream cfg (.turnAllOff c)).length = 2 * cfg.frameSize + 4 * cfg.chainLength ∧
    (cfg.valid = true → ∀ i : Instr, 1 ≤ (stream cfg i).length)

/-- The byte of a self-contained command at each position, as the last sentence of R31 has it. -/
def Obligations.SelfContainedByteAtPosition : Prop :=
  ∀ (cfg : Config) (c : Color) (p : Nat), p < 2 * cfg.frameSize + 4 * cfg.chainLength →
    (stream cfg (.init c))[p]? = some (if p < cfg.frameSize then cfg.startMarker
      else if p < cfg.frameSize + 4 * cfg.chainLength then (initFrame cfg).getD ((p - cfg.frameSize) % 4) 0
      else cfg.endMarker) ∧
    (stream cfg (.setAll c))[p]? = some (if p < cfg.frameSize then cfg.startMarker
      else if p < cfg.frameSize + 4 * cfg.chainLength then (setFrame cfg c).getD ((p - cfg.frameSize) % 4) 0
      else cfg.endMarker) ∧
    (stream cfg (.turnAllOff c))[p]? = some (if p < cfg.frameSize then cfg.startMarker
      else if p < cfg.frameSize + 4 * cfg.chainLength then (offFrame cfg).getD ((p - cfg.frameSize) % 4) 0
      else cfg.endMarker)

/-! ### Laws over several commands -/

/-- The composability law the spec derives from R110 and R111: sendStart, N times setOne, sendEnd put on the wire the
bytes of one setAll, for every color, every configuration and every idle state. -/
def Obligations.WindowOfSetOneEqualsSetAll : Prop :=
  ∀ (cfg : Config) (s : State) (c a b : Color), cfg.valid = true → s.busy = false →
    ∃ t u, issueAll cfg (.sendStart a :: (List.replicate cfg.chainLength (.setOne c) ++ [.sendEnd b])) s = .next t ∧
      issueAll cfg [.setAll c] s = .next u ∧ t.busy = false ∧ u.busy = false ∧ t.tx = u.tx ∧
      u.tx = s.tx ++ delimStart cfg ++ copies cfg.chainLength (setFrame cfg c) ++ delimEnd cfg

/-- The composition law the spec derives from R121 and R122: turnAllOff emits the bytes of sendStart, N times turnOff,
sendEnd. -/
def Obligations.WindowOfTurnOffEqualsTurnAllOff : Prop :=
  ∀ (cfg : Config) (s : State) (a b c d : Color), cfg.valid = true → s.busy = false →
    ∃ t u, issueAll cfg (.sendStart a :: (List.replicate cfg.chainLength (.turnOff c) ++ [.sendEnd b])) s = .next t ∧
      issueAll cfg [.turnAllOff d] s = .next u ∧ t.busy = false ∧ u.busy = false ∧ t.tx = u.tx ∧
      u.tx = s.tx ++ delimStart cfg ++ copies cfg.chainLength (offFrame cfg) ++ delimEnd cfg

/-- The idempotence law the spec derives from R111: two setAll of one color emit the same 2*FRAME_SIZE + 4*N bytes
twice. -/
def Obligations.RepeatedSetAllRepeatsBytes : Prop :=
  ∀ (cfg : Config) (s : State) (c : Color), cfg.valid = true → s.busy = false →
    ∃ bytes t, bytes.length = 2 * cfg.frameSize + 4 * cfg.chainLength ∧
      issueAll cfg [.setAll c, .setAll c] s = .next t ∧ t.tx = s.tx ++ bytes ++ bytes ∧ t.busy = false

/-- What the spec derives from R31, R35 and R36: the bytes of a command are a function of the command and the
configuration, whatever came before. Any two idle states emit the same bytes for one command in one build. -/
def Obligations.CommandBytesDependOnNothingElse : Prop :=
  ∀ (cfg : Config) (s t : State) (i : Instr), cfg.valid = true → s.busy = false → t.busy = false →
    ∃ bytes u v, issue cfg i s = .next u ∧ issue cfg i t = .next v ∧ u.tx = s.tx ++ bytes ∧ v.tx = t.tx ++ bytes ∧
      u.busy = false ∧ v.busy = false ∧ 1 ≤ bytes.length

/-! ### Encoding -/

/-- Decoding the word of a command gives the command back, with every color field at every value; and each word has one
meaning, so encoding what a word decodes to gives the word. -/
def Obligations.DecodeInvertsEncode : Prop :=
  (∀ i : Instr, decode (encode i) = .command i) ∧ ∀ (w : CmdWord) (i : Instr), decode w = .command i → encode i = w

/-- The opcode table's rows, match under mask, and the reserved words: what the spec derives as "Decode is total". -/
def Obligations.DecodeFollowsOpcodeTable : Prop :=
  ∀ w : CmdWord,
    (w &&& 0xFF00000000 = 0x0000000000 → decode w = .command (.sendStart (colorField w))) ∧
    (w &&& 0xFF00000000 = 0x0100000000 → decode w = .command (.sendEnd (colorField w))) ∧
    (w &&& 0xFF00000000 = 0x0200000000 → decode w = .command (.init (colorField w))) ∧
    (w &&& 0xFF00000000 = 0x0300000000 → decode w = .command (.setOne (colorField w))) ∧
    (w &&& 0xFF00000000 = 0x0400000000 → decode w = .command (.setAll (colorField w))) ∧
    (w &&& 0xFF00000000 = 0x0500000000 → decode w = .command (.turnOff (colorField w))) ∧
    (w &&& 0xFF00000000 = 0x0600000000 → decode w = .command (.turnAllOff (colorField w))) ∧
    (0x0700000000#40 ≤ w → decode w = .reserved (w.extractLsb' 32 8))

/-- A few words, from the spec's decode vectors (V-DEC). -/
def Obligations.KnownWordsDecode : Prop :=
  decode 0x00DEADBEEF = .command (.sendStart ⟨0xDE, 0xAD, 0xBE, 0xEF⟩) ∧
  decode 0x02FFFFFFFF = .command (.init ⟨0xFF, 0xFF, 0xFF, 0xFF⟩) ∧
  decode 0x03FF00003F = .command (.setOne ⟨0xFF, 0x00, 0x00, 0x3F⟩) ∧
  decode 0x0410203005 = .command (.setAll ⟨0x10, 0x20, 0x30, 0x05⟩) ∧
  decode 0x0600000000 = .command (.turnAllOff ⟨0x00, 0x00, 0x00, 0x00⟩) ∧
  decode 0x0700000000 = .reserved 0x07 ∧ decode 0xFFFFFFFFFF = .reserved 0xFF

/-- The assembler reads the line it writes for a command, and makes the command's word of it (R67). Which digits and
spaces it writes is the model's choice (log 19). -/
def Obligations.AssemblerReadsWhatItWrites : Prop :=
  ∀ i : Instr, i.assemblerForm = true →
    parseLine (lineText i) = .command i ∧ assemble [lineText i] = some [encode i]

/-! ### Invariants -/

/-- The initial state keeps the block's invariant and the exactness of TX, for every valid configuration and every
schedule; the built configuration is valid. That it is, whatever else it holds, is the model's own choice (log 2), and the
point TX is cut at is the model's own mark (log 14). -/
def Obligations.ResetKeepsInvariants : Prop :=
  Config.built.valid = true ∧
  ∀ (cfg : Config) (p : Inputs) (l : List Inputs), cfg.valid = true →
    ({ State.reset with port := p, later := l } : State).Inv cfg ∧
    ({ State.reset with port := p, later := l } : State).TraceExact cfg

/-- Every step keeps the invariant the spec derives from R23, R24, R35 and R36 ("State invariants, holding in every
reachable state"): the configuration valid, POS 0 while idle, a defined opcode and POS within its stream while busy. So
does every step of the host's machine, for the built configuration (log 2). -/
def Obligations.StepKeepsStateInvariants : Prop :=
  (∀ (cfg : Config) (s t : State), s.Inv cfg → stepWith cfg s = .next t → t.Inv cfg) ∧
  ∀ s t : State, s.Inv Config.built → step s = .next t → t.Inv Config.built

/-- Every state a run reaches, under any valid configuration and any schedule, keeps that invariant. -/
def Obligations.ReachableStatesKeepInvariants : Prop :=
  ∀ (cfg : Config) (p : Inputs) (l : List Inputs) (n : Nat) (t : State), cfg.valid = true →
    run cfg n { State.reset with port := p, later := l } = .next t → t.Inv cfg

/-- Every step keeps TX exact: since the last RESET it holds the streams of the accepted commands in order of
acceptance, and of the command in flight the first POS bytes (what the spec derives as "Order of bytes"). So does every
step of the host's machine, for the built configuration (log 2). The mark of the last RESET is the model's own (log 14). -/
def Obligations.StepKeepsTraceExact : Prop :=
  (∀ (cfg : Config) (s t : State), s.TraceExact cfg → stepWith cfg s = .next t → t.TraceExact cfg) ∧
  ∀ s t : State, s.TraceExact Config.built → step s = .next t → t.TraceExact Config.built

/-- From a state that keeps the invariant, a step always answers a next state, but for one case: an idle block whose
handshake word is reserved. The block raises nothing (R130), and the model refuses nothing else. R131 (a) refuses any
reserved word the host presents: that one presented while BUSY = 1 (log 9) or in a RESET step (log 10) is not refused is
the model's reading, and that a block with no event enabled answers a next state is the model's form (log 8). -/
def Obligations.OnlyReservedWordsAreRefused : Prop :=
  ∀ (cfg : Config) (s : State), s.Inv cfg → (∃ t, stepWith cfg s = .next t) ∨
    (s.busy = false ∧ s.port.reset = false ∧ s.port.cmdValid = true ∧
      7 ≤ (s.port.cmdWord.extractLsb' 32 8).toNat ∧
      stepWith cfg s = .refused (.reservedOpcode (s.port.cmdWord.extractLsb' 32 8)))

/-! ### Rules of the whole machine -/

/-- The configuration does not change while the block runs (R8): however long a run from reset, and whatever commands and
RESETs it takes, TX since the last RESET is made of the streams of the one configuration the run began with, none of which
a command or a port has altered. That the model holds the configuration as an argument is log 1; the mark of the last
RESET is the model's own (log 14). -/
def Obligations.ConfigurationNeverChanges : Prop :=
  ∀ (cfg : Config) (p : Inputs) (l : List Inputs) (n : Nat) (t : State), cfg.valid = true →
    run cfg n { State.reset with port := p, later := l } = .next t → t.TraceExact cfg

/-- R37: a step leaves TX alone, or is an EMIT and appends the one byte at POS. -/
def Obligations.OnlyEmitAppendsToTrace : Prop :=
  ∀ (cfg : Config) (s t : State), stepWith cfg s = .next t →
    (t.tx = s.tx ∧ ¬(s.port.reset = false ∧ s.busy = true ∧ s.port.txReady = true)) ∨
    (s.port.reset = false ∧ s.busy = true ∧ s.port.txReady = true ∧
      ∃ b, (s.latchedStream cfg)[s.pos]? = some b ∧ t.tx = s.tx ++ [b])

/-- R24 (and R150): BUSY after a step. RESET clears it, the EMIT of a command's last byte clears it, ACCEPT, which
needs BUSY = 0, sets it, nothing else changes it; the host reads it; its reset value is 0. -/
def Obligations.BusyAfterEveryStep : Prop :=
  State.reset.busy = false ∧ (∀ s : State, s.busyOut = s.busy) ∧
  ∀ (cfg : Config) (s t : State), stepWith cfg s = .next t →
    t.busy = if s.port.reset then false
      else if s.busy then
        (if s.port.txReady then decide (s.pos + 1 ≠ (s.latchedStream cfg).length) else true)
      else s.port.cmdValid

/-- R23 (and R150): POS after a step. RESET and ACCEPT set it to 0, EMIT advances it by one and at the last byte
returns it to 0, nothing else changes it. -/
def Obligations.PosAfterEveryStep : Prop :=
  ∀ (cfg : Config) (s t : State), stepWith cfg s = .next t →
    t.pos = if s.port.reset then 0
      else if s.busy then
        (if s.port.txReady then (if s.pos + 1 = (s.latchedStream cfg).length then 0 else s.pos + 1) else s.pos)
      else (if s.port.cmdValid then 0 else s.pos)

/-- The bound of R23: POS fits in every counter of w bits with 2*FRAME_SIZE + 4*N ≤ 2^w. -/
def Obligations.PosFitsItsCounter : Prop :=
  ∀ (cfg : Config) (s : State), s.Inv cfg → s.pos + 1 ≤ 2 * cfg.frameSize + 4 * cfg.chainLength ∧
    ∀ w : Nat, 2 * cfg.frameSize + 4 * cfg.chainLength ≤ 2 ^ w → s.pos < 2 ^ w

/-- OP and COLOR are written by ACCEPT only, and by RESET, which leaves them unspecified. -/
def Obligations.LatchesHoldUntilNextAccept : Prop :=
  ∀ (cfg : Config) (s t : State), stepWith cfg s = .next t → s.port.reset = false →
    (s.busy = true ∨ s.port.cmdValid = false) → t.op = s.op ∧ t.color = s.color

/-- The history is what R154 calls it, the commands accepted since the last RESET: ACCEPT appends its command, RESET
empties it, nothing else changes it. -/
def Obligations.HistoryRecordsAcceptedCommands : Prop :=
  ∀ (cfg : Config) (s t : State), stepWith cfg s = .next t →
    (s.port.reset = true → t.history = []) ∧
    (s.port.reset = false → s.busy = false → s.port.cmdValid = true →
      ∃ i, decode s.port.cmdWord = .command i ∧ t.history = s.history ++ [i]) ∧
    (s.port.reset = false → (s.busy = true ∨ s.port.cmdValid = false) → t.history = s.history)

/-! ### What is never read -/

/-- The transport's returned byte has no effect on any step. -/
def Obligations.ReturnedByteIsIgnored : Prop :=
  ∀ (cfg : Config) (s : State) (b : Byte), stepWith cfg { s with port := { s.port with rxByte := b } } = stepWith cfg s

/-- While BUSY = 1 the command port is not sampled: no change of it, a reserved word included, alters the step. That a
reserved word is no exception is the model's reading (log 9). -/
def Obligations.CommandPortUnreadWhileBusy : Prop :=
  ∀ (cfg : Config) (s : State) (v : Bool) (w : CmdWord), s.busy = true →
    stepWith cfg { s with port := { s.port with cmdValid := v, cmdWord := w } } = stepWith cfg s

/-- OP and COLOR while BUSY = 0 are unobservable: other values of them change no step but for themselves, and not even
that once a command is accepted. -/
def Obligations.IdleLatchesAreUnobservable : Prop :=
  ∀ (cfg : Config) (s : State) (o : Byte) (c : Color), s.busy = false →
    (∀ t, stepWith cfg s = .next t → ∃ u, stepWith cfg { s with op := o, color := c } = .next u ∧
      u = { t with op := u.op, color := u.color } ∧ (t.busy = true → u = t)) ∧
    ∀ x, stepWith cfg s = .refused x → stepWith cfg { s with op := o, color := c } = .refused x

/-- The commands other than setOne and setAll never read COLOR: with any color latched they emit the same. -/
def Obligations.ColorReadOnlyBySetCommands : Prop :=
  ∀ (cfg : Config) (s t : State) (c : Color), s.op ≠ 0x03 → s.op ≠ 0x04 → emit cfg s = .next t →
    emit cfg { s with color := c } = .next { t with color := c }

/-- No step reads the TX trace or the mark in it: with any other TX and any other mark the same step is taken, the same
bytes are appended, and a refusal stays the same refusal. The mark is the model's own (log 14), set by RESET to the length
of the TX that stands there. -/
def Obligations.TraceIsNeverRead : Prop :=
  ∀ (cfg : Config) (s : State) (tx' : List Byte) (m' : Nat),
    (∀ t, stepWith cfg s = .next t → ∃ suffix, t.tx = s.tx ++ suffix ∧
      stepWith cfg { s with tx := tx', txMark := m' } =
        .next { t with tx := tx' ++ suffix, txMark := if s.port.reset then tx'.length else m' }) ∧
    ∀ x, stepWith cfg s = .refused x → stepWith cfg { s with tx := tx', txMark := m' } = .refused x

/-- The block checks no window discipline: whatever history stands in the record, well formed or not, the same step is
taken, and nothing but the record differs after it. -/
def Obligations.WindowDisciplineIsNotEnforced : Prop :=
  ∀ (cfg : Config) (s : State) (h : List Instr),
    (∀ t, stepWith cfg s = .next t → ∃ k, stepWith cfg { s with history := h } = .next { t with history := k }) ∧
    ∀ x, stepWith cfg s = .refused x → stepWith cfg { s with history := h } = .refused x

/-- The outputs: busy and tx_valid are BUSY, cmd_ready its negation, and while BUSY = 1 tx_byte is the byte at POS and
the one EMIT sends. -/
def Obligations.OutputsFollowState : Prop :=
  (∀ s : State, s.busyOut = s.busy ∧ s.cmdReady = !s.busy ∧ s.txValid = s.busy) ∧
  ∀ (cfg : Config) (s : State), s.Inv cfg → s.busy = true → (s.latchedStream cfg)[s.pos]? = some (s.txByte cfg) ∧
    ∃ t, emit cfg s = .next t ∧ t.tx = s.tx ++ [s.txByte cfg]

/-! ### Runs under a schedule -/

/-- A command in flight completes under every schedule without RESET in which the transport accepts often enough (the
bounded form of TRANSPORT_LIVE, D25): its remaining bytes, and only they, are sent by the time BUSY falls. That a step in
which the transport does not accept is a waiting step, and is counted, is the model's form (log 8). -/
def Obligations.CommandInFlightCompletes : Prop :=
  ∀ (cfg : Config) (s : State) (i : Instr), s.Inv cfg → s.busy = true → s.latched = some i → noReset s.inputs = true →
    (stream cfg i).length - s.pos ≤ acceptances s.inputs →
    ∃ n ≤ s.inputs.length, ∃ t, run cfg n s = .next t ∧ t.busy = false ∧ t.pos = 0 ∧
      t.tx = s.tx ++ (stream cfg i).drop s.pos

/-- A command presented to an idle block is accepted, and under every schedule without RESET that goes on to accept
often enough (the bounded form of TRANSPORT_LIVE, D25) it completes, having sent exactly its stream. That a step in which
the transport does not accept is a waiting step, and is counted, is the model's form (log 8). -/
def Obligations.PresentedCommandCompletes : Prop :=
  ∀ (cfg : Config) (s : State) (i : Instr), s.Inv cfg → s.busy = false → s.port.cmdValid = true →
    decode s.port.cmdWord = .command i → noReset s.inputs = true →
    (stream cfg i).length ≤ acceptances s.later →
    ∃ n ≤ s.inputs.length, ∃ t, run cfg n s = .next t ∧ t.busy = false ∧ t.pos = 0 ∧
      t.tx = s.tx ++ stream cfg i

/-- A stuck block, BUSY = 1 and the transport never accepting, has no event but RESET enabled (R131 c, R137, U6): while no
RESET comes it stays stuck for ever, a hang (R131 d), with POS, the latches and TX as they were; RESET frees it. That its
steps are waiting steps is the model's form (log 8), that the outside is quiet after the listed inputs is log 7. -/
def Obligations.StalledTransportHoldsCommand : Prop :=
  (∀ (cfg : Config) (s : State), cfg.valid = true → s.Stuck →
    s.event cfg = if s.port.reset then .reset else .wait) ∧
  (∀ (cfg : Config) (s : State), cfg.valid = true → s.Stuck → noReset s.inputs = true →
    s.Hangs cfg ∧ ∀ n, ∃ t, run cfg n s = .next t ∧ t.Stuck ∧ t.pos = s.pos ∧ t.op = s.op ∧ t.color = s.color ∧
      t.tx = s.tx) ∧
  ∀ (cfg : Config) (s : State), cfg.valid = true → s.Stuck → s.port.reset = true →
    ∃ t, stepWith cfg s = .next t ∧ t.busy = false ∧ t.pos = 0 ∧ t.tx = s.tx

/-- A command held on the port while BUSY = 1 is neither accepted nor queued while the block is busy, stalls of the
transport included, and the first step after BUSY falls (after the `m`-th, the one that sends the last byte) accepts it
(R157). That a stall is a waiting step, and is counted, is the model's form (log 8); that a reserved word on the port
meanwhile is ignored is its reading (log 9). -/
def Obligations.HeldCommandIsAcceptedNext : Prop :=
  ∀ (cfg : Config) (s : State) (i j : Instr) (m : Nat), s.Inv cfg → s.busy = true → s.latched = some i →
    noReset (s.inputs.take m) = true → s.pos + acceptances (s.inputs.take m) = (stream cfg i).length →
    (∀ k < m, s.pos + acceptances (s.inputs.take k) < (stream cfg i).length) →
    (∃ p, s.inputs[m]? = some p ∧ p.reset = false ∧ p.cmdValid = true ∧ decode p.cmdWord = .command j) →
    (∀ k ≤ m, ∃ t, run cfg k s = .next t ∧ t.history = s.history ∧ (t.busy = false ↔ k = m)) ∧
    ∃ t, run cfg (m + 1) s = .next t ∧ t.busy = true ∧ t.pos = 0 ∧ t.latched = some j ∧
      t.history = s.history ++ [j] ∧ t.tx = s.tx ++ (stream cfg i).drop s.pos

/-- A run that has ended well (R143), BUSY = 0 and no command to come, stays ended, whatever RESETs still come: it sends
nothing of its own, and but for a RESET the history stays. That its steps without RESET are waiting steps is the model's
form (log 8), that the outside is quiet after the listed inputs is log 7. -/
def Obligations.EndedRunStaysSilent : Prop :=
  ∀ (cfg : Config) (s : State) (n : Nat), cfg.valid = true → s.EndedWell →
    ∃ t, run cfg n s = .next t ∧ t.EndedWell ∧ t.tx = s.tx ∧
      (noReset (s.inputs.take n) = true → t.history = s.history)

/-! ### The caller's contract -/

/-- The recogniser agrees with the grammar: a history leads outside every window exactly when it is a complete
well-formed one, and inside one exactly when it keeps the grammar up to an open window (log 15). -/
def Obligations.RecogniserAgreesWithGrammar : Prop :=
  ∀ h : List Instr, (placeOf h = .outside ↔ CompleteHistory h) ∧ (placeOf h = .inside ↔ OpenHistory h)
end

