-- ==== Sys2Proof/Laws/Decode.lean ====
section
/-! SUPPORT. What decoding and the fields of a word can be (spec/30_encoding.md R60 to R69). -/

namespace Sys2Proof

/-- The latches of a command give the command back (R35, R36). -/
@[simp] theorem Instr.ofFields_opcode_color (i : Instr) : Instr.ofFields i.opcode i.color = some i := by
  cases i <;> rfl

/-- Everything `ofFields` can answer. -/
theorem Instr.ofFields_eq_some {op : Byte} {c : Color} {i : Instr} (h : Instr.ofFields op c = some i) :
    i.opcode = op ∧ i.color = c := by
  unfold Instr.ofFields at h
  split_ifs at h <;> cases h <;> simp_all [Instr.opcode, Instr.color]

/-- Only the opcodes 0x07 to 0xFF are reserved (R64). -/
theorem Instr.ofFields_eq_none {op : Byte} {c : Color} : Instr.ofFields op c = none ↔ 7 ≤ op.toNat := by
  constructor
  · intro h
    unfold Instr.ofFields at h
    split_ifs at h
    bv_omega
  · intro h
    unfold Instr.ofFields
    split_ifs <;> first | rfl | (subst_vars; exact absurd h (by decide))

/-- Everything `decode` can answer, for a command. -/
theorem decode_command {w : CmdWord} {i : Instr} (h : decode w = .command i) :
    i.opcode = opField w ∧ i.color = colorField w := by
  unfold decode at h
  split at h
  · next j hj => cases h; exact Instr.ofFields_eq_some hj
  · cases h

/-- Everything `decode` can answer, for a reserved word. -/
theorem decode_reserved {w : CmdWord} {op : Byte} (h : decode w = .reserved op) :
    op = opField w ∧ 7 ≤ (opField w).toNat := by
  unfold decode at h
  split at h
  · cases h
  · next hn => cases h; exact ⟨rfl, Instr.ofFields_eq_none.mp hn⟩

/-- The OP field of a word written from fields. -/
@[simp] theorem opField_encodeFields (op : Byte) (c : Color) : opField (encodeFields op c) = op := by
  apply BitVec.eq_of_getLsbD_eq
  intro k hk
  simp [opField, encodeFields]
  interval_cases k <;> simp

/-- The color fields of a word written from fields. -/
@[simp] theorem colorField_encodeFields (op : Byte) (c : Color) : colorField (encodeFields op c) = c := by
  obtain ⟨r, g, b, i⟩ := c
  simp only [colorField, Color.mk.injEq]
  refine ⟨?_, ?_, ?_, ?_⟩ <;>
  · apply BitVec.eq_of_getLsbD_eq
    intro k hk
    simp [encodeFields]
    interval_cases k <;> simp

end Sys2Proof
end

