-- ==== Sys2Proof/Laws/State.lean ====
section
/-! SUPPORT. The record updates of the state: one lemma per field per update, so that no proof unfolds one. -/

namespace Sys2Proof.Machine

/-! ### The effect of ACCEPT (R35, R154) -/

@[simp] theorem State.accepted_busy (i : Instr) (s : State) : (s.accepted i).busy = true := rfl
@[simp] theorem State.accepted_pos (i : Instr) (s : State) : (s.accepted i).pos = 0 := rfl
@[simp] theorem State.accepted_op (i : Instr) (s : State) : (s.accepted i).op = i.opcode := rfl
@[simp] theorem State.accepted_color (i : Instr) (s : State) : (s.accepted i).color = i.color := rfl
@[simp] theorem State.accepted_tx (i : Instr) (s : State) : (s.accepted i).tx = s.tx := rfl
@[simp] theorem State.accepted_history (i : Instr) (s : State) : (s.accepted i).history = s.history ++ [i] := rfl
@[simp] theorem State.accepted_txMark (i : Instr) (s : State) : (s.accepted i).txMark = s.txMark := rfl
@[simp] theorem State.accepted_port (i : Instr) (s : State) : (s.accepted i).port = s.port := rfl
@[simp] theorem State.accepted_later (i : Instr) (s : State) : (s.accepted i).later = s.later := rfl
@[simp] theorem State.accepted_draw (i : Instr) (s : State) : (s.accepted i).draw = s.draw := rfl

/-! ### The effect of EMIT (R36) -/

@[simp] theorem State.sent_busy (b : Byte) (n : Nat) (s : State) : (s.sent b n).busy = busyAfterEmit s.pos n := rfl
@[simp] theorem State.sent_pos (b : Byte) (n : Nat) (s : State) : (s.sent b n).pos = posAfterEmit s.pos n := rfl
@[simp] theorem State.sent_op (b : Byte) (n : Nat) (s : State) : (s.sent b n).op = s.op := rfl
@[simp] theorem State.sent_color (b : Byte) (n : Nat) (s : State) : (s.sent b n).color = s.color := rfl
@[simp] theorem State.sent_tx (b : Byte) (n : Nat) (s : State) : (s.sent b n).tx = s.tx ++ [b] := rfl
@[simp] theorem State.sent_history (b : Byte) (n : Nat) (s : State) : (s.sent b n).history = s.history := rfl
@[simp] theorem State.sent_txMark (b : Byte) (n : Nat) (s : State) : (s.sent b n).txMark = s.txMark := rfl
@[simp] theorem State.sent_port (b : Byte) (n : Nat) (s : State) : (s.sent b n).port = s.port := rfl
@[simp] theorem State.sent_later (b : Byte) (n : Nat) (s : State) : (s.sent b n).later = s.later := rfl
@[simp] theorem State.sent_draw (b : Byte) (n : Nat) (s : State) : (s.sent b n).draw = s.draw := rfl

/-! ### The effect of RESET (R150, R30) -/

@[simp] theorem State.afterReset_busy (s : State) : (s.afterReset).busy = false := rfl
@[simp] theorem State.afterReset_pos (s : State) : (s.afterReset).pos = 0 := rfl
@[simp] theorem State.afterReset_op (s : State) : (s.afterReset).op = Config.freeByte .op s.draw := rfl
@[simp] theorem State.afterReset_color (s : State) :
    (s.afterReset).color = ⟨Config.freeByte .colorR s.draw, Config.freeByte .colorG s.draw, Config.freeByte .colorB s.draw,
      Config.freeByte .colorI s.draw⟩ := rfl
@[simp] theorem State.afterReset_tx (s : State) : (s.afterReset).tx = s.tx := rfl
@[simp] theorem State.afterReset_history (s : State) : (s.afterReset).history = [] := rfl
@[simp] theorem State.afterReset_txMark (s : State) : (s.afterReset).txMark = s.tx.length := rfl
@[simp] theorem State.afterReset_port (s : State) : (s.afterReset).port = s.port := rfl
@[simp] theorem State.afterReset_later (s : State) : (s.afterReset).later = s.later := rfl
@[simp] theorem State.afterReset_draw (s : State) : (s.afterReset).draw = s.draw := rfl

/-! ### The outside moving on (log 7) -/

@[simp] theorem State.advance_busy (s : State) : (s.advance).busy = s.busy := rfl
@[simp] theorem State.advance_pos (s : State) : (s.advance).pos = s.pos := rfl
@[simp] theorem State.advance_op (s : State) : (s.advance).op = s.op := rfl
@[simp] theorem State.advance_color (s : State) : (s.advance).color = s.color := rfl
@[simp] theorem State.advance_tx (s : State) : (s.advance).tx = s.tx := rfl
@[simp] theorem State.advance_history (s : State) : (s.advance).history = s.history := rfl
@[simp] theorem State.advance_txMark (s : State) : (s.advance).txMark = s.txMark := rfl
@[simp] theorem State.advance_port (s : State) : (s.advance).port = nextPort s.later := rfl
@[simp] theorem State.advance_later (s : State) : (s.advance).later = s.later.tail := rfl
@[simp] theorem State.advance_draw (s : State) : (s.advance).draw = s.draw + 1 := rfl

/-! ### Reset (R30, R150) -/

@[simp] theorem State.reset_busy : State.reset.busy = false := rfl
@[simp] theorem State.reset_pos : State.reset.pos = 0 := rfl
@[simp] theorem State.reset_op : State.reset.op = 0 := rfl
@[simp] theorem State.reset_color : State.reset.color = ⟨0, 0, 0, 0⟩ := rfl
@[simp] theorem State.reset_tx : State.reset.tx = [] := rfl
@[simp] theorem State.reset_history : State.reset.history = [] := rfl
@[simp] theorem State.reset_txMark : State.reset.txMark = 0 := rfl
@[simp] theorem State.reset_port : State.reset.port = Inputs.quiet := rfl
@[simp] theorem State.reset_later : State.reset.later = [] := rfl
@[simp] theorem State.reset_draw : State.reset.draw = 0 := rfl

end Sys2Proof.Machine
end

