-- ==== Sys2Proof/Laws/Ops.lean ====
section
/-! SUPPORT. What each shared operation can do, said once. -/

namespace Sys2Proof

/-- A valid configuration in numbers (R9). -/
theorem Config.valid_iff (c : Config) : c.valid = true ↔ 1 ≤ c.chainLength ∧ 1 ≤ c.frameSize := by
  obtain ⟨_ | n, _ | f, -⟩ := c <;> simp [Config.valid]

/-- The built configuration is valid (R9, log 2). -/
theorem Config.built_valid : Config.built.valid = true := rfl

namespace Machine

/-- Every command's meaning is its ACCEPT (R35). -/
theorem exec_eq_accept (i : Instr) (s : State) : exec i s = accept i s := by
  cases i <;> rfl

/-- Everything ACCEPT can do. -/
theorem accept_cases {i : Instr} {s t : State} (h : accept i s = .next t) :
    (s.busy = true ∧ t = s) ∨ (s.busy = false ∧ t = s.accepted i) := by
  unfold accept at h
  split_ifs at h with hb <;> cases h <;> simp_all

/-- ACCEPT of an idle block (R35). -/
theorem accept_idle {i : Instr} {s : State} (hb : s.busy = false) : accept i s = .next (s.accepted i) := by
  simp [accept, hb]

/-- Everything EMIT can do. -/
theorem emit_cases {cfg : Config} {s t : State} (h : emit cfg s = .next t) :
    (s.busy = false ∧ t = s) ∨
    (s.busy = true ∧ ∃ b, (s.latchedStream cfg)[s.pos]? = some b ∧ t = s.sent b (s.latchedStream cfg).length) := by
  unfold emit emitFrom at h
  split_ifs at h with hb
  · split at h
    · next b e => cases h; exact .inr ⟨hb, b, e, rfl⟩
    · cases h
  · cases h; exact .inl ⟨by simpa using hb, rfl⟩

/-- EMIT of a block in flight that has a byte left (R36). -/
theorem emit_busy {cfg : Config} {s : State} {b : Byte} (hb : s.busy = true)
    (h : (s.latchedStream cfg)[s.pos]? = some b) : emit cfg s = .next (s.sent b (s.latchedStream cfg).length) := by
  simp [emit, emitFrom, hb, h]

/-- Everything the outside's move makes of an outcome. -/
theorem thenAdvance_next {r : Result} {t : State} (h : thenAdvance r = .next t) :
    ∃ u, r = .next u ∧ t = u.advance := by
  cases r <;> cases h
  exact ⟨_, rfl, rfl⟩

/-- The latches after ACCEPT hold the accepted command. -/
@[simp] theorem State.accepted_latched (i : Instr) (s : State) : (s.accepted i).latched = some i := by
  simp [State.latched]

/-- The stream of the latches, once they are known to hold a command. -/
theorem State.latchedStream_of {cfg : Config} {s : State} {i : Instr} (h : s.latched = some i) :
    s.latchedStream cfg = stream cfg i := by
  simp [State.latchedStream, h]

/-- The stream of the latches is one of latches alone: EMIT keeps it. -/
@[simp] theorem State.sent_latchedStream (b : Byte) (n : Nat) (s : State) (cfg : Config) :
    (s.sent b n).latchedStream cfg = s.latchedStream cfg := rfl

/-- The outside's move keeps the stream of the latches. -/
@[simp] theorem State.advance_latchedStream (s : State) (cfg : Config) :
    s.advance.latchedStream cfg = s.latchedStream cfg := rfl

/-- EMIT keeps the latches. -/
@[simp] theorem State.sent_latched (b : Byte) (n : Nat) (s : State) : (s.sent b n).latched = s.latched := rfl

/-- The outside's move keeps the latches. -/
@[simp] theorem State.advance_latched (s : State) : s.advance.latched = s.latched := rfl

/-- A block in flight that keeps R29 has a byte to emit. -/
theorem State.Inv.next_byte {cfg : Config} {s : State} (h : s.Inv cfg) (hb : s.busy = true) :
    ∃ b, (s.latchedStream cfg)[s.pos]? = some b := by
  obtain ⟨i, hi, hp⟩ := h.2.2 hb
  rw [State.latchedStream_of hi]
  exact ⟨_, List.getElem?_eq_getElem hp⟩

end Machine

end Sys2Proof
end

