-- ==== Sys2Proof/Laws/PerInstr.lean ====
section
/-! SUPPORT. The statements made per command, as the host splits them. -/

/-- The word of a command carries its opcode in OP and its color in the color fields (R60, R67). -/
def Sys2Proof.Laws.WordFields.Statement (i : Sys2Proof.Instr) : Prop :=
  Sys2Proof.opField (Sys2Proof.encode i) = i.opcode ∧ Sys2Proof.colorField (Sys2Proof.encode i) = i.color

namespace Sys2Proof.Laws.WordFields

theorem sendStart (c : Color) : Statement (.sendStart c) := by simp [Statement, encode]

theorem sendEnd (c : Color) : Statement (.sendEnd c) := by simp [Statement, encode]

theorem init (c : Color) : Statement (.init c) := by simp [Statement, encode]

theorem setOne (c : Color) : Statement (.setOne c) := by simp [Statement, encode]

theorem setAll (c : Color) : Statement (.setAll c) := by simp [Statement, encode]

theorem turnOff (c : Color) : Statement (.turnOff c) := by simp [Statement, encode]

theorem turnAllOff (c : Color) : Statement (.turnAllOff c) := by simp [Statement, encode]

end Sys2Proof.Laws.WordFields
end

