-- ==== Sys2Proof/Laws/Step.lean ====
section
/-! SUPPORT. Everything a step can do (spec/10_state.md R39), said once, for the block of any configuration. -/

namespace Sys2Proof.Machine

/-- The machine the host runs is the block of the built configuration (log 2). -/
theorem step_eq_stepWith (s : State) : step s = stepWith Config.built s := rfl

/-- No run of an invalid configuration (R9, R131 b). -/
theorem stepWith_invalid {cfg : Config} (hv : cfg.valid = false) (s : State) :
    stepWith cfg s = .refused .invalidConfig := by
  simp [stepWith, State.event, hv]

/-- RESET (R150, R133). -/
theorem stepWith_reset {cfg : Config} {s : State} (hv : cfg.valid = true) (hr : s.port.reset = true) :
    stepWith cfg s = .next s.afterReset.advance := by
  simp [stepWith, State.event, hv, hr, thenAdvance]

/-- EMIT (R36). -/
theorem stepWith_emit {cfg : Config} {s : State} {b : Byte} (hv : cfg.valid = true) (hr : s.port.reset = false)
    (hb : s.busy = true) (ht : s.port.txReady = true) (e : (s.latchedStream cfg)[s.pos]? = some b) :
    stepWith cfg s = .next (s.sent b (s.latchedStream cfg).length).advance := by
  simp [stepWith, State.event, hv, hr, hb, ht, thenAdvance, emit_busy hb e]

/-- ACCEPT (R35). -/
theorem stepWith_accept {cfg : Config} {s : State} {i : Instr} (hv : cfg.valid = true) (hr : s.port.reset = false)
    (hb : s.busy = false) (hc : s.port.cmdValid = true) (hd : decode s.port.cmdWord = .command i) :
    stepWith cfg s = .next (s.accepted i).advance := by
  simp [stepWith, State.event, hv, hr, hb, hc, hd, thenAdvance, exec_eq_accept, accept_idle hb]

/-- Waiting (R33, R137, log 8). -/
theorem stepWith_wait {cfg : Config} {s : State} (hv : cfg.valid = true) (hr : s.port.reset = false)
    (h : (s.busy = true ∧ s.port.txReady = false) ∨ (s.busy = false ∧ s.port.cmdValid = false)) :
    stepWith cfg s = .next s.advance := by
  obtain ⟨hb, hx⟩ | ⟨hb, hx⟩ := h <;> simp [stepWith, State.event, hv, hr, hb, hx, thenAdvance]

/-- A step that answers a next state took RESET, EMIT, ACCEPT, or waited, and then the outside moved on. -/
theorem stepWith_cases {cfg : Config} {s t : State} (h : stepWith cfg s = .next t) :
    cfg.valid = true ∧
    ((s.port.reset = true ∧ t = s.afterReset.advance) ∨
     (s.port.reset = false ∧ s.busy = true ∧ s.port.txReady = true ∧
       ∃ b, (s.latchedStream cfg)[s.pos]? = some b ∧ t = (s.sent b (s.latchedStream cfg).length).advance) ∨
     (s.port.reset = false ∧ s.busy = false ∧ s.port.cmdValid = true ∧
       ∃ i, decode s.port.cmdWord = .command i ∧ t = (s.accepted i).advance) ∨
     (s.port.reset = false ∧
       ((s.busy = true ∧ s.port.txReady = false) ∨ (s.busy = false ∧ s.port.cmdValid = false)) ∧
       t = s.advance)) := by
  unfold stepWith State.event at h
  split_ifs at h with hv hr hb ht hc
  · cases h; exact ⟨hv, .inl ⟨hr, rfl⟩⟩
  · obtain ⟨u, hu, rfl⟩ := thenAdvance_next h
    obtain ⟨hf, -⟩ | ⟨-, b, e, rfl⟩ := emit_cases hu
    · simp [hf] at hb
    · exact ⟨hv, .inr (.inl ⟨by simpa using hr, hb, ht, b, e, rfl⟩)⟩
  · cases h
    exact ⟨hv, .inr (.inr (.inr ⟨by simpa using hr, .inl ⟨hb, by simpa using ht⟩, rfl⟩))⟩
  · have hb' : s.busy = false := by simpa using hb
    cases hd : decode s.port.cmdWord with
    | command i =>
      rw [hd] at h
      obtain ⟨u, hu, rfl⟩ := thenAdvance_next h
      rw [exec_eq_accept, accept_idle hb'] at hu
      cases hu
      exact ⟨hv, .inr (.inr (.inl ⟨by simpa using hr, hb', hc, i, rfl, rfl⟩))⟩
    | reserved op => rw [hd] at h; cases h
  · cases h
    exact ⟨hv, .inr (.inr (.inr ⟨by simpa using hr, .inr ⟨by simpa using hb, by simpa using hc⟩, rfl⟩))⟩

end Sys2Proof.Machine
end

