-- ==== Sys2Proof/Laws/Run.lean ====
section
/-! SUPPORT. Runs of steps and of EMIT events, one more at a time, and the induction over a run said once. -/

namespace Sys2Proof.Machine

/-- The host's machine is the block of the built configuration (log 2). -/
theorem core_eq_coreWith : core = coreWith Config.built := rfl

/-- No step. -/
@[simp] theorem run_zero (cfg : Config) (s : State) : run cfg 0 s = .next s := rfl

/-- A run of a next step. -/
theorem run_succ {cfg : Config} {n : Nat} {s u : State} (h : stepWith cfg s = .next u) :
    run cfg (n + 1) s = run cfg n u := by
  have e := Host.Core.run.eq_2 (coreWith cfg) s n
  rw [show (coreWith cfg).step s = .next u from h] at e
  exact e

/-- A run whose first step is refused. -/
theorem run_succ_refused {cfg : Config} {n : Nat} {s : State} {x : Refusal} (h : stepWith cfg s = .refused x) :
    run cfg (n + 1) s = .refused x := by
  have e := Host.Core.run.eq_2 (coreWith cfg) s n
  rw [show (coreWith cfg).step s = .refused x from h] at e
  exact e

/-- A run that reaches a state took a first step. -/
theorem run_succ_next {cfg : Config} {n : Nat} {s t : State} (h : run cfg (n + 1) s = .next t) :
    ∃ u, stepWith cfg s = .next u ∧ run cfg n u = .next t := by
  cases hs : stepWith cfg s with
  | next u => exact ⟨u, rfl, run_succ hs ▸ h⟩
  | fault r => exact r.rec
  | refused x => cases h.symm.trans (run_succ_refused hs)

/-- What every step keeps, every run keeps. -/
theorem run_keeps {cfg : Config} (P : State → Prop) (hP : ∀ s t, P s → stepWith cfg s = .next t → P t) {n : Nat}
    {s t : State} (hs : P s) (h : run cfg n s = .next t) : P t := by
  induction n generalizing s with
  | zero => cases h; exact hs
  | succ n ih =>
    obtain ⟨u, hu, hr⟩ := run_succ_next h
    exact ih (hP s u hs hu) hr

/-- No EMIT. -/
@[simp] theorem emits_zero (cfg : Config) (s : State) : emits cfg 0 s = .next s := rfl

/-- EMIT events that begin with one of a block in flight. -/
theorem emits_succ {cfg : Config} {n : Nat} {s u : State} (h : emit cfg s = .next u) :
    emits cfg (n + 1) s = emits cfg n u := by
  simp [emits, h]

/-! ### The schedule -/

/-- The step's own inputs, then the others. -/
theorem State.inputs_eq (s : State) : s.inputs = s.port :: s.later := rfl

/-- After a step the inputs are those that were to come, or quiet ones (log 7). -/
theorem State.advance_inputs (s : State) :
    s.advance.inputs = if s.later = [] then [Inputs.quiet] else s.later := by
  cases h : s.later <;> simp [State.inputs, nextPort, h]

/-- A quiet end keeps what the listed inputs keep: no command, no acceptance, no RESET. -/
theorem State.advance_noCommand {s : State} (h : noCommand s.inputs = true) : noCommand s.advance.inputs = true := by
  rw [State.advance_inputs]
  split_ifs <;> simp_all [noCommand, State.inputs, Inputs.quiet]

theorem State.advance_acceptances {s : State} (h : acceptances s.inputs = 0) : acceptances s.advance.inputs = 0 := by
  rw [State.advance_inputs]
  split_ifs
  · rfl
  · simp only [State.inputs, acceptances, List.countP_cons] at h ⊢; omega

theorem State.advance_noReset {s : State} (h : noReset s.inputs = true) : noReset s.advance.inputs = true := by
  rw [State.advance_inputs]
  split_ifs <;> simp_all [noReset, State.inputs, Inputs.quiet]

end Sys2Proof.Machine
end

