-- ==== Sys2Proof/Laws/Stream.lean ====
section
/-! SUPPORT. Lengths and repetitions of the byte streams (spec/10_state.md R31). -/

namespace Sys2Proof.Machine

/-- A command frame has four bytes (R45). -/
@[simp] theorem enc_length (flag : Byte) (c : Color) (m : Byte) : (enc flag c m).length = 4 := rfl

/-- A start delimiter has FRAME_SIZE bytes (R84). -/
@[simp] theorem delimStart_length (cfg : Config) : (delimStart cfg).length = cfg.frameSize := by simp [delimStart]

/-- An end delimiter has FRAME_SIZE bytes (R84). -/
@[simp] theorem delimEnd_length (cfg : Config) : (delimEnd cfg).length = cfg.frameSize := by simp [delimEnd]

/-- No copy of a frame. -/
@[simp] theorem copies_zero (frame : List Byte) : copies 0 frame = [] := rfl

/-- One copy more. -/
theorem copies_succ (n : Nat) (frame : List Byte) : copies (n + 1) frame = frame ++ copies n frame := by
  simp [copies, List.replicate_succ]

/-- The length of `n` copies. -/
@[simp] theorem copies_length (n : Nat) (frame : List Byte) : (copies n frame).length = n * frame.length := by
  simp [copies]

/-- The length of a transaction of four-byte frames. -/
theorem transaction_length (cfg : Config) (frame : List Byte) (h : frame.length = 4) :
    (transaction cfg frame).length = 2 * cfg.frameSize + 4 * cfg.chainLength := by
  simp [transaction, h]; omega

end Sys2Proof.Machine
end

