-- ==== Sys2Proof/Tests/Slice0.lean ====
section
/-! SUPPORT. Small tests against spec/95_test_vectors.md and the encodings of spec/30_encoding.md, and for each
statement with hypotheses a state that meets them. -/

namespace Sys2Proof.Tests

open Sys2Proof.Machine

/-! ### Helpers -/

/-- The reference configuration with N = 3, POWER_SAVING true and START_FLAG instantiated as 0x00. -/
def cfg3 : Config := Config.reference 3 true 0x00

/-- Inputs: the transport ready and nothing else. -/
def ready : Inputs := ⟨false, false, 0, true, 0⟩

/-- Inputs: a word on the command port and the transport ready. -/
def offer (w : CmdWord) : Inputs := ⟨false, true, w, true, 0⟩

/-- Inputs: RESET, with a word and the transport ready beside it. -/
def resetNow (w : CmdWord) : Inputs := ⟨true, true, w, true, 0⟩

/-- The same inputs with the transport not ready. -/
def stalled (p : Inputs) : Inputs := { p with txReady := false }

/-- An idle block at the start of a run. -/
def idle (p : Inputs) (l : List Inputs) : State := { State.reset with port := p, later := l }

/-- The color of the spec's examples. -/
def exampleColor : Color := ⟨0x10, 0x20, 0x30, 0x05⟩

/-- setOne of the example color in flight with `k` bytes sent. -/
def inFlight (k : Nat) (p : Inputs) (l : List Inputs) : State :=
  { State.reset with
    busy := true, pos := k, op := 0x03, color := exampleColor, history := [.setOne exampleColor],
    tx := [0xE5, 0x30, 0x20, 0x10].take k, port := p, later := l }

/-- The answer is a next state. -/
def isNext (r : Result) : Bool := match r with
  | .next _ => true
  | _ => false

/-- The refusal, if the answer is one. -/
def refusal (r : Result) : Option Refusal := match r with
  | .refused x => some x
  | _ => none

/-- BUSY, POS and TX of the next state. -/
def seen (r : Result) : Option (Bool × Nat × List Byte) := match r with
  | .next s => some (s.busy, s.pos, s.tx)
  | _ => none

theorem exists_next {r : Result} (h : isNext r = true) : ∃ t, r = .next t := by
  cases r <;> first | exact ⟨_, rfl⟩ | cases h

theorem inFlight_inv {k : Nat} {p : Inputs} {l : List Inputs} (h : k < 4) : (inFlight k p l).Inv cfg3 :=
  ⟨show cfg3.valid = true by decide, nofun, fun _ => ⟨.setOne exampleColor, rfl, h⟩⟩

theorem idle_inv {c : Config} {p : Inputs} {l : List Inputs} (h : c.valid = true) : (idle p l).Inv c :=
  ⟨h, fun _ => rfl, nofun⟩

/-! ### Well-formedness: an ill-formed term for each check -/

/-- R9: N = 0 and FRAME_SIZE = 0 are refused (V-SEQ-5). -/
theorem test_valid_refuses :
    (Config.reference 0 true 0).valid = false ∧ { cfg3 with frameSize := 0 }.valid = false ∧ cfg3.valid = true := by
  decide

/-- R67: the assembler writes no color into a command without operands. -/
theorem test_assemblerForm_refuses :
    (Instr.sendStart exampleColor).assemblerForm = false ∧ (Instr.sendEnd exampleColor).assemblerForm = false ∧
    (Instr.init exampleColor).assemblerForm = false ∧ (Instr.turnOff exampleColor).assemblerForm = false ∧
    (Instr.turnAllOff exampleColor).assemblerForm = false ∧ (Instr.setOne exampleColor).assemblerForm = true := by
  decide

/-! ### Decoding: words written out bit by bit from R60 and R63 -/

/-- OP = 00000000, fields ignored. -/
theorem test_decode_sendStart :
    decode 0b00000000_00000001_00000010_00000011_00000100 = .command (.sendStart ⟨1, 2, 3, 4⟩) := by decide

/-- OP = 00000001. -/
theorem test_decode_sendEnd :
    decode 0b00000001_00000000_00000000_00000000_00000000 = .command (.sendEnd ⟨0, 0, 0, 0⟩) := by decide

/-- OP = 00000010. -/
theorem test_decode_init :
    decode 0b00000010_11111111_11111111_11111111_11111111 = .command (.init ⟨0xFF, 0xFF, 0xFF, 0xFF⟩) := by decide

/-- OP = 00000011, R = 0x10, G = 0x20, B = 0x30, I = 0x05. -/
theorem test_decode_setOne :
    decode 0b00000011_00010000_00100000_00110000_00000101 = .command (.setOne exampleColor) := by decide

/-- OP = 00000100. -/
theorem test_decode_setAll :
    decode 0b00000100_00010000_00100000_00110000_00000101 = .command (.setAll exampleColor) := by decide

/-- OP = 00000101. -/
theorem test_decode_turnOff :
    decode 0b00000101_00000000_00000000_00000000_00000000 = .command (.turnOff ⟨0, 0, 0, 0⟩) := by decide

/-- OP = 00000110. -/
theorem test_decode_turnAllOff :
    decode 0b00000110_00000000_00000000_00000000_00000000 = .command (.turnAllOff ⟨0, 0, 0, 0⟩) := by decide

/-- The first and the last reserved opcode (V-DEC). -/
theorem test_decode_reserved : decode 0x0700000000 = .reserved 0x07 ∧ decode 0xFFFFFFFFFF = .reserved 0xFF := by decide

/-- The table's numbering: the row setAll. -/
theorem test_decodeTableWord : decodeTableWord 40 0x0400000000 = some (.setAll ⟨0, 0, 0, 0⟩) ∧
    decodeTableWord 40 0x0700000000 = none := by decide

/-- The words of R90 to R122. -/
theorem test_encode_canonical : [Instr.sendStart ⟨0, 0, 0, 0⟩, .sendEnd ⟨0, 0, 0, 0⟩, .init ⟨0, 0, 0, 0⟩,
    .setOne exampleColor, .setAll exampleColor, .turnOff ⟨0, 0, 0, 0⟩, .turnAllOff ⟨0, 0, 0, 0⟩].map encode =
    [0x0000000000, 0x0100000000, 0x0200000000, 0x0310203005, 0x0410203005, 0x0500000000, 0x0600000000] := by decide

/-! ### The assembler (R67) -/

/-- A line of program P3, hexadecimal, with its comment cut. -/
theorem test_assemble_hex : parseLine
    ['s','e','t','O','n','e',' ','r','=','0','x','F','F',',',' ','g','=','0','x','0','0',',',' ','b','=','0','x','0',
     '0',',',' ','i','=','0','x','3','F',' ',' ',';',' ','r','e','d'] = .command (.setOne ⟨0xFF, 0, 0, 0x3F⟩) := by
  decide +kernel

/-- Decimal operands; all four are required; a byte is below 256. -/
theorem test_assemble_decimal :
    parseColor ['r','=','1','6',',','g','=','3','2',',','b','=','4','8',',','i','=','5'] = some exampleColor ∧
    parseColor ['r','=','1','6',',','g','=','3','2',',','b','=','4','8'] = none ∧
    parseByte ['2','5','6'] = none := by decide +kernel

/-! ### Frames and streams (V-ENC, V-DELIM, V-INIT, V-SET, V-PWR) -/

/-- V-ENC, full frames. -/
theorem test_enc : enc 0xE0 ⟨1, 2, 3, 4⟩ 0x3F = [0xE4, 3, 2, 1] ∧ enc 0xC0 ⟨1, 2, 3, 0x20⟩ 0x3F = [0xE0, 3, 2, 1] ∧
    enc 0xC0 ⟨1, 2, 3, 0x20⟩ 0x1F = [0xC0, 3, 2, 1] := by decide

/-- V-DELIM: FRAME_SIZE = 8 with N = 200, and another start marker. -/
theorem test_delimiters :
    stream { Config.reference 200 true 0 with frameSize := 8 } (.sendEnd ⟨0, 0, 0, 0⟩) = List.replicate 8 0xFF ∧
    stream { cfg3 with startMarker := 0x55 } (.sendStart ⟨0, 0, 0, 0⟩) = [0x55, 0x55, 0x55, 0x55] := by decide

/-- V-INIT-2 and V-INIT-3. -/
theorem test_init_stream :
    stream { Config.reference 1 true 0 with frameSize := 1 } (.init ⟨0, 0, 0, 0⟩) = [0x00, 0xE1, 0, 0, 0, 0xFF] ∧
    stream { cfg3 with minIntensity := 0x21 } (.init ⟨0, 0, 0, 0⟩) =
      [0, 0, 0, 0, 0xE1, 0, 0, 0, 0xE1, 0, 0, 0, 0xE1, 0, 0, 0, 0xFF, 0xFF, 0xFF, 0xFF] := by decide

/-- V-SET-3, V-SET-5 and V-SET-10. -/
theorem test_setOne_stream :
    stream cfg3 (.setOne ⟨0xFF, 0xFF, 0xFF, 0x1F⟩) = [0xFF, 0xFF, 0xFF, 0xFF] ∧
    stream cfg3 (.setOne ⟨0, 0, 0, 0x20⟩) = [0xE0, 0, 0, 0] ∧
    stream { cfg3 with enableFlag := 0xC0 } (.setOne ⟨1, 2, 3, 0x20⟩) = [0xE0, 3, 2, 1] := by decide

/-- V-SET-7: N = 1, FRAME_SIZE = 1. -/
theorem test_setAll_stream :
    stream { Config.reference 1 true 0 with frameSize := 1 } (.setAll ⟨0xAA, 0xBB, 0xCC, 0xDD⟩) =
      [0x00, 0xFD, 0xCC, 0xBB, 0xAA, 0xFF] := by decide

/-- V-PWR-1 and V-PWR-3. -/
theorem test_turnOff_stream :
    stream cfg3 (.turnOff ⟨0xFF, 0xFF, 0xFF, 0xFF⟩) = [0xA1, 0, 0, 0] ∧
    stream (Config.reference 3 false 0xE0) (.turnOff ⟨0, 0, 0, 0⟩) = [0xE1, 0, 0, 0] := by decide

/-- V-PWR-4. -/
theorem test_turnAllOff_stream : stream (Config.reference 2 true 0) (.turnAllOff ⟨0, 0, 0, 0⟩) =
    [0, 0, 0, 0, 0xA1, 0, 0, 0, 0xA1, 0, 0, 0, 0xFF, 0xFF, 0xFF, 0xFF] := by decide

/-! ### Single steps (V-SEQ) -/

/-- V-SEQ step 1: ACCEPT sends nothing. -/
theorem test_step_accept : seen (stepWith cfg3 (idle (offer 0x0310203005) [])) = some (true, 0, []) := by decide

/-- V-SEQ step 1 in the host's machine, whatever its build: the word placed at reset is the first to run. -/
theorem test_step_from_reset :
    seen (step (State.reset.withFetchWord 40 0x0310203005)) = some (true, 0, []) := by decide

/-- V-SEQ step 2: the first EMIT. -/
theorem test_step_first_emit : seen (stepWith cfg3 (inFlight 0 ready [])) = some (true, 1, [0xE5]) := by decide

/-- V-SEQ step 5: the last EMIT clears BUSY and POS. -/
theorem test_step_last_emit :
    seen (stepWith cfg3 (inFlight 3 ready [])) = some (false, 0, [0xE5, 0x30, 0x20, 0x10]) := by decide

/-- V-SEQ-3: the transport is not ready. -/
theorem test_step_stall : seen (stepWith cfg3 (inFlight 1 Inputs.quiet [])) = some (true, 1, [0xE5]) := by decide

/-- V-SEQ-4: RESET after two bytes. -/
theorem test_step_reset :
    seen (stepWith cfg3 (inFlight 2 (resetNow 0x0700000000) [])) = some (false, 0, [0xE5, 0x30]) := by decide

/-- V-DEC: a reserved word at an idle block is refused; while BUSY = 1 it is not sampled. -/
theorem test_step_reserved :
    refusal (stepWith cfg3 (idle (offer 0x0700000000) [])) = some (.reservedOpcode 0x07) ∧
    seen (stepWith cfg3 (inFlight 0 (offer 0x0700000000) [])) = some (true, 1, [0xE5]) := by decide

/-- V-SEQ-5: no run of an invalid configuration. -/
theorem test_step_invalid :
    refusal (stepWith (Config.reference 0 true 0) (idle ready [])) = some .invalidConfig := by decide

/-- R38: tx_byte while a command is in flight. -/
theorem test_txByte : (inFlight 0 ready []).txByte cfg3 = 0xE5 ∧ (inFlight 3 ready []).txByte cfg3 = 0x10 := by decide

/-- R154: P1 is complete, a window may stand open, P5 breaks the grammar. -/
theorem test_placeOf : placeOf [.init ⟨0, 0, 0, 0⟩] = .outside ∧
    placeOf [.init ⟨0, 0, 0, 0⟩, .sendStart ⟨0, 0, 0, 0⟩, .setOne exampleColor] = .inside ∧
    placeOf [.sendStart ⟨0, 0, 0, 0⟩, .setAll exampleColor, .sendEnd ⟨0, 0, 0, 0⟩] = .broken := by decide

/-! ### Witnesses: for each statement with hypotheses, what meets them -/

theorem witness_ResetLeavesBlockIdle :
    cfg3.valid = true ∧ (inFlight 2 (resetNow 0) []).port.reset = true := by decide

theorem witness_ResetAbortsCommandInFlight :
    cfg3.valid = true ∧ (inFlight 2 (resetNow 0) []).busy = true ∧
    (inFlight 2 (resetNow 0) []).port.reset = true := by decide

/-- RESET beside a reserved word (log 10), and beside a defined one. -/
theorem witness_ResetExcludesOtherEvents :
    cfg3.valid = true ∧ (idle (resetNow 0x0700000000) []).port.reset = true ∧
    decode (idle (resetNow 0x0700000000) []).port.cmdWord = .reserved 0x07 ∧
    (inFlight 1 (resetNow 0x0310203005) []).port.reset = true := by decide

theorem witness_InvalidConfigurationHasNoRun :
    (Config.reference 0 true 0).valid = false ∧ { cfg3 with frameSize := 0 }.valid = false := by decide

/-- The last defined and the first reserved opcode. -/
theorem witness_AcceptLatchesPresentedWord :
    cfg3.valid = true ∧ (idle (offer 0x0600000000) []).port.reset = false ∧
    (idle (offer 0x0600000000) []).busy = false ∧ (idle (offer 0x0600000000) []).port.cmdValid = true ∧
    ((idle (offer 0x0600000000) []).port.cmdWord.extractLsb' 32 8).toNat < 7 ∧
    7 ≤ ((idle (offer 0x0700000000) []).port.cmdWord.extractLsb' 32 8).toNat := by decide

/-- The first and the last byte, and a stall. -/
theorem witness_EmitSendsByteAtPos :
    ((inFlight 0 ready []).Inv cfg3 ∧ (inFlight 0 ready []).busy = true ∧
      (inFlight 0 ready []).latched = some (.setOne exampleColor) ∧ (inFlight 0 ready []).port.reset = false ∧
      (inFlight 0 ready []).port.txReady = true ∧
      (inFlight 0 ready []).pos + 1 ≠ (stream cfg3 (.setOne exampleColor)).length) ∧
    ((inFlight 3 ready []).Inv cfg3 ∧
      (inFlight 3 ready []).pos + 1 = (stream cfg3 (.setOne exampleColor)).length) ∧
    ((inFlight 1 Inputs.quiet []).Inv cfg3 ∧ (inFlight 1 Inputs.quiet []).port.txReady = false) :=
  ⟨⟨inFlight_inv (by decide), rfl, rfl, rfl, rfl, by decide⟩, ⟨inFlight_inv (by decide), rfl⟩,
    ⟨inFlight_inv (by decide), rfl⟩⟩

theorem witness_StepRunsDecodedCommand :
    cfg3.valid = true ∧ (idle (offer 0x0310203005) []).port.reset = false ∧
    (idle (offer 0x0310203005) []).busy = false ∧ (idle (offer 0x0310203005) []).port.cmdValid = true ∧
    decode (idle (offer 0x0310203005) []).port.cmdWord = .command (.setOne exampleColor) ∧
    decodeTableWord 40 0x0310203005 = some (.setOne exampleColor) := by decide

/-- An idle and a busy block. -/
theorem witness_ExecFrame :
    (∃ t, exec (.init exampleColor) (idle ready []) = .next t) ∧
    ∃ t, exec (.init exampleColor) (inFlight 1 ready []) = .next t :=
  ⟨exists_next (by decide), exists_next (by decide)⟩

/-- A busy and an idle block. -/
theorem witness_EmitFrame :
    (∃ t, emit cfg3 (inFlight 1 ready []) = .next t) ∧ ∃ t, emit cfg3 (idle ready []) = .next t :=
  ⟨exists_next (by decide), exists_next (by decide)⟩

theorem witness_SendStartEmitsStartDelimiter :
    cfg3.valid = true ∧ (idle ready []).busy = false ∧ 1 ≤ 3 ∧ (0x00DEADBEEF#40).extractLsb' 32 8 = 0x00#8 := by decide

theorem witness_SendEndEmitsEndDelimiter :
    cfg3.valid = true ∧ (idle ready []).busy = false ∧ 1 ≤ 3 ∧ (0x0100000000#40).extractLsb' 32 8 = 0x01#8 := by decide

theorem witness_InitEmitsDarkFrames :
    cfg3.valid = true ∧ (idle ready []).busy = false ∧ (0x02FFFFFFFF#40).extractLsb' 32 8 = 0x02#8 := by decide

theorem witness_SetOneEmitsColorFrame :
    cfg3.valid = true ∧ (idle ready []).busy = false ∧ 1 ≤ 3 ∧ (0x0310203005#40).extractLsb' 32 8 = 0x03#8 := by decide

theorem witness_SetAllEmitsColorFrames :
    cfg3.valid = true ∧ (idle ready []).busy = false ∧ (0x0410203005#40).extractLsb' 32 8 = 0x04#8 := by decide

/-- POWER_SAVING true and false. -/
theorem witness_TurnOffEmitsOffFrame :
    cfg3.valid = true ∧ cfg3.powerSaving = true ∧ (idle ready []).busy = false ∧ 1 ≤ 3 ∧
    (Config.reference 1 false 0xE0).valid = true ∧ (Config.reference 1 false 0xE0).powerSaving = false ∧
    (0x05FFFFFFFF#40).extractLsb' 32 8 = 0x05#8 := by decide

theorem witness_TurnAllOffEmitsOffFrames :
    cfg3.valid = true ∧ (idle ready []).busy = false ∧ (0x0600000000#40).extractLsb' 32 8 = 0x06#8 := by decide

/-- Two colors alike in the bits the flag leaves free, a flag with bit 5, a nonzero one, and the intensity of 0xFF. -/
theorem witness_ByteZeroLaws :
    ((⟨1, 2, 3, 0x25⟩ : Color).i &&& 0x3F &&& ~~~0xE0#8 = exampleColor.i &&& 0x3F &&& ~~~0xE0#8) ∧
    (0xE0#8).getLsbD 5 = true ∧ 0xE0#8 ≠ 0x00 ∧ (⟨1, 2, 3, 0x1F⟩ : Color).i = 0x1F := by decide

theorem witness_SetPathAtReferenceFlag : (⟨1, 2, 3, 0x20⟩ : Color).i = 0x20 := by decide

theorem witness_FrameCanEqualEndDelimiter : (0x1F#8 &&& 0x1F = 0x1F) ∧ (0xFF#8 &&& 0x1F = 0x1F) := by decide

theorem witness_StreamLengths : cfg3.valid = true := by decide

/-- The first and last position of each part at N = 3, FRAME_SIZE = 4. -/
theorem witness_SelfContainedByteAtPosition :
    ∀ p ∈ [0, 3, 4, 15, 16, 19], p < 2 * cfg3.frameSize + 4 * cfg3.chainLength := by decide

theorem witness_WindowOfSetOneEqualsSetAll : cfg3.valid = true ∧ (idle ready []).busy = false := by decide

theorem witness_WindowOfTurnOffEqualsTurnAllOff :
    (Config.reference 1 false 0xE0).valid = true ∧ (idle ready []).busy = false := by decide

theorem witness_RepeatedSetAllRepeatsBytes : cfg3.valid = true ∧ (idle ready []).busy = false := by decide

/-- Two idle blocks that differ in what they have sent. -/
theorem witness_CommandBytesDependOnNothingElse :
    cfg3.valid = true ∧ (idle ready []).busy = false ∧
    ({ idle ready [] with tx := [0xE5] } : State).busy = false := by decide

theorem witness_DecodeInvertsEncode : decode 0x0310203005 = .command (.setOne exampleColor) := by decide

/-- A word of each row, and the first reserved one. -/
theorem witness_DecodeFollowsOpcodeTable :
    (0x00DEADBEEF#40 &&& 0xFF00000000 = 0x0000000000) ∧ (0x0100000001#40 &&& 0xFF00000000 = 0x0100000000) ∧
    (0x0200000001#40 &&& 0xFF00000000 = 0x0200000000) ∧ (0x0310203005#40 &&& 0xFF00000000 = 0x0300000000) ∧
    (0x0410203005#40 &&& 0xFF00000000 = 0x0400000000) ∧ (0x05FFFFFFFF#40 &&& 0xFF00000000 = 0x0500000000) ∧
    (0x06FFFFFFFF#40 &&& 0xFF00000000 = 0x0600000000) ∧ 0x0700000000#40 ≤ 0x0700000000#40 := by decide

theorem witness_AssemblerReadsWhatItWrites :
    (Instr.sendStart ⟨0, 0, 0, 0⟩).assemblerForm = true ∧ (Instr.setAll exampleColor).assemblerForm = true := by decide

theorem witness_ResetKeepsInvariants : cfg3.valid = true := by decide

/-- A step that ends a command, one that accepts one, and one of the host's machine. -/
theorem witness_StepKeepsStateInvariants :
    ((inFlight 3 ready []).Inv cfg3 ∧ ∃ t, stepWith cfg3 (inFlight 3 ready []) = .next t) ∧
    ((idle (offer 0x0310203005) []).Inv cfg3 ∧ ∃ t, stepWith cfg3 (idle (offer 0x0310203005) []) = .next t) ∧
    ((idle (offer 0x0310203005) []).Inv Config.built ∧ ∃ t, step (idle (offer 0x0310203005) []) = .next t) :=
  ⟨⟨inFlight_inv (by decide), exists_next (by decide)⟩, ⟨idle_inv (by decide), exists_next (by decide)⟩,
    ⟨idle_inv (by decide), exists_next (by decide)⟩⟩

theorem witness_ReachableStatesKeepInvariants :
    cfg3.valid = true ∧ ∃ t, run cfg3 2 (idle (offer 0x0310203005) [ready]) = .next t :=
  ⟨by decide, exists_next (by decide)⟩

theorem witness_StepKeepsTraceExact :
    ((inFlight 3 ready []).TraceExact cfg3 ∧ ∃ t, stepWith cfg3 (inFlight 3 ready []) = .next t) ∧
    ((idle (offer 0x0310203005) []).TraceExact Config.built ∧ ∃ t, step (idle (offer 0x0310203005) []) = .next t) :=
  ⟨⟨⟨Nat.zero_le _, [], .setOne exampleColor, rfl, rfl, rfl⟩, exists_next (by decide)⟩,
    ⟨⟨Nat.zero_le _, rfl⟩, exists_next (by decide)⟩⟩

/-- Both clauses: a step that is taken, and the one that is refused. -/
theorem witness_OnlyReservedWordsAreRefused :
    ((inFlight 0 ready []).Inv cfg3 ∧ ∃ t, stepWith cfg3 (inFlight 0 ready []) = .next t) ∧
    ((idle (offer 0x0700000000) []).Inv cfg3 ∧
      refusal (stepWith cfg3 (idle (offer 0x0700000000) [])) = some (.reservedOpcode 0x07)) :=
  ⟨⟨inFlight_inv (by decide), exists_next (by decide)⟩, ⟨idle_inv (by decide), by decide⟩⟩

/-- A run that accepts a command, sends a byte, and is reset. -/
theorem witness_ConfigurationNeverChanges :
    cfg3.valid = true ∧ ∃ t, run cfg3 3 (idle (offer 0x0310203005) [ready, resetNow 0]) = .next t :=
  ⟨by decide, exists_next (by decide)⟩

/-- Both clauses: a step that is no EMIT, and an EMIT. -/
theorem witness_OnlyEmitAppendsToTrace :
    (∃ t, stepWith cfg3 (idle (offer 0x0310203005) []) = .next t) ∧ ∃ t, stepWith cfg3 (inFlight 0 ready []) = .next t :=
  ⟨exists_next (by decide), exists_next (by decide)⟩

/-- RESET, a last EMIT, a stall, an ACCEPT. -/
theorem witness_BusyAfterEveryStep :
    (∃ t, stepWith cfg3 (inFlight 2 (resetNow 0) []) = .next t) ∧ (∃ t, stepWith cfg3 (inFlight 3 ready []) = .next t) ∧
    (∃ t, stepWith cfg3 (inFlight 3 Inputs.quiet []) = .next t) ∧
    ∃ t, stepWith cfg3 (idle (offer 0x0600000000) []) = .next t :=
  ⟨exists_next (by decide), exists_next (by decide), exists_next (by decide), exists_next (by decide)⟩

/-- RESET, a last EMIT, an EMIT before it, an ACCEPT. -/
theorem witness_PosAfterEveryStep :
    (∃ t, stepWith cfg3 (inFlight 2 (resetNow 0) []) = .next t) ∧ (∃ t, stepWith cfg3 (inFlight 3 ready []) = .next t) ∧
    (∃ t, stepWith cfg3 (inFlight 2 ready []) = .next t) ∧ ∃ t, stepWith cfg3 (idle (offer 0x0000000000) []) = .next t :=
  ⟨exists_next (by decide), exists_next (by decide), exists_next (by decide), exists_next (by decide)⟩

/-- 20 positions need five bits. -/
theorem witness_PosFitsItsCounter :
    (inFlight 3 ready []).Inv cfg3 ∧
    2 * cfg3.frameSize + 4 * cfg3.chainLength ≤ 2 ^ 5 :=
  ⟨inFlight_inv (by decide), by decide⟩

/-- A busy block, and an idle one without a command. -/
theorem witness_LatchesHoldUntilNextAccept :
    ((∃ t, stepWith cfg3 (inFlight 1 ready []) = .next t) ∧ (inFlight 1 ready []).port.reset = false ∧
      (inFlight 1 ready []).busy = true) ∧
    ((∃ t, stepWith cfg3 (idle ready []) = .next t) ∧ (idle ready []).port.cmdValid = false) :=
  ⟨⟨exists_next (by decide), rfl, rfl⟩, ⟨exists_next (by decide), rfl⟩⟩

/-- RESET, an ACCEPT, an EMIT. -/
theorem witness_HistoryRecordsAcceptedCommands :
    (∃ t, stepWith cfg3 (inFlight 2 (resetNow 0) []) = .next t) ∧
    (∃ t, stepWith cfg3 (idle (offer 0x0310203005) []) = .next t) ∧ ∃ t, stepWith cfg3 (inFlight 0 ready []) = .next t :=
  ⟨exists_next (by decide), exists_next (by decide), exists_next (by decide)⟩

theorem witness_CommandPortUnreadWhileBusy : (inFlight 0 ready []).busy = true := by decide

/-- An idle block that accepts, that is reset, that waits, and that refuses. -/
theorem witness_IdleLatchesAreUnobservable :
    (idle ready []).busy = false ∧ (∃ t, stepWith cfg3 (idle (offer 0x0310203005) []) = .next t) ∧
    (∃ t, stepWith cfg3 (idle (resetNow 0) []) = .next t) ∧ (∃ t, stepWith cfg3 (idle ready []) = .next t) ∧
    refusal (stepWith cfg3 (idle (offer 0xFF00000000) [])) = some (.reservedOpcode 0xFF) :=
  ⟨rfl, exists_next (by decide), exists_next (by decide), exists_next (by decide), by decide⟩

/-- turnOff in flight. -/
theorem witness_ColorReadOnlyBySetCommands :
    ({ inFlight 0 ready [] with op := 0x05 } : State).op ≠ 0x03 ∧
    ({ inFlight 0 ready [] with op := 0x05 } : State).op ≠ 0x04 ∧
    ∃ t, emit cfg3 ({ inFlight 0 ready [] with op := 0x05 } : State) = .next t :=
  ⟨by decide, by decide, exists_next (by decide)⟩

/-- A step that sends a byte, a RESET, and a refusal. -/
theorem witness_TraceIsNeverRead :
    (∃ t, stepWith cfg3 (inFlight 1 ready []) = .next t) ∧
    (∃ t, stepWith cfg3 (inFlight 1 (resetNow 0) []) = .next t) ∧
    refusal (stepWith cfg3 (idle (offer 0x0700000000) [])) = some (.reservedOpcode 0x07) :=
  ⟨exists_next (by decide), exists_next (by decide), by decide⟩

theorem witness_WindowDisciplineIsNotEnforced :
    (∃ t, stepWith cfg3 (idle (offer 0x0100000000) []) = .next t) ∧
    refusal (stepWith cfg3 (idle (offer 0x0700000000) [])) = some (.reservedOpcode 0x07) :=
  ⟨exists_next (by decide), by decide⟩

theorem witness_OutputsFollowState : (inFlight 3 ready []).Inv cfg3 ∧ (inFlight 3 ready []).busy = true :=
  ⟨inFlight_inv (by decide), rfl⟩

/-- Two bytes left, a stall between them. -/
theorem witness_CommandInFlightCompletes :
    (inFlight 2 ready [Inputs.quiet, ready]).Inv cfg3 ∧ (inFlight 2 ready [Inputs.quiet, ready]).busy = true ∧
    (inFlight 2 ready [Inputs.quiet, ready]).latched = some (.setOne exampleColor) ∧
    noReset (inFlight 2 ready [Inputs.quiet, ready]).inputs = true ∧
    (stream cfg3 (.setOne exampleColor)).length -
      (inFlight 2 ready [Inputs.quiet, ready]).pos ≤ acceptances (inFlight 2 ready [Inputs.quiet, ready]).inputs :=
  ⟨inFlight_inv (by decide), rfl, rfl, by decide, by decide⟩

theorem witness_PresentedCommandCompletes :
    (idle (offer 0x0310203005) [ready, ready, Inputs.quiet, ready, ready]).Inv cfg3 ∧
    (idle (offer 0x0310203005) [ready, ready, Inputs.quiet, ready, ready]).busy = false ∧
    (idle (offer 0x0310203005) [ready, ready, Inputs.quiet, ready, ready]).port.cmdValid = true ∧
    decode (idle (offer 0x0310203005) [ready, ready, Inputs.quiet, ready, ready]).port.cmdWord =
      .command (.setOne exampleColor) ∧
    noReset (idle (offer 0x0310203005) [ready, ready, Inputs.quiet, ready, ready]).inputs = true ∧
    (stream cfg3 (.setOne exampleColor)).length ≤ acceptances [ready, ready, Inputs.quiet, ready, ready] :=
  ⟨idle_inv (by decide), rfl, rfl, by decide, by decide, by decide⟩

/-- A stuck block without a RESET to come, and one that is reset; one whose transport accepts later is not stuck. -/
theorem witness_StalledTransportHoldsCommand :
    cfg3.valid = true ∧ (inFlight 1 Inputs.quiet [stalled (offer 0)]).Stuck ∧
    noReset (inFlight 1 Inputs.quiet [stalled (offer 0)]).inputs = true ∧
    (inFlight 1 (stalled (resetNow 0)) []).Stuck ∧ (inFlight 1 (stalled (resetNow 0)) []).port.reset = true ∧
    ¬(inFlight 1 Inputs.quiet [ready]).Stuck :=
  ⟨by decide, ⟨rfl, by decide⟩, by decide, ⟨rfl, by decide⟩, rfl, fun h => absurd h.2 (by decide)⟩

/-- The block of the next witness: one byte left, a stall first, and init held meanwhile. -/
def held : State :=
  inFlight 3 (stalled (offer 0x0200000000)) [offer 0x0200000000, offer 0x0200000000]

theorem witness_HeldCommandIsAcceptedNext :
    held.Inv cfg3 ∧ held.busy = true ∧ held.latched = some (.setOne exampleColor) ∧
    noReset (held.inputs.take 2) = true ∧
    held.pos + acceptances (held.inputs.take 2) = (stream cfg3 (.setOne exampleColor)).length ∧
    (∀ k < 2, held.pos + acceptances (held.inputs.take k) < (stream cfg3 (.setOne exampleColor)).length) ∧
    ∃ p, held.inputs[2]? = some p ∧ p.reset = false ∧ p.cmdValid = true ∧
      decode p.cmdWord = .command (.init ⟨0, 0, 0, 0⟩) :=
  ⟨inFlight_inv (by decide), rfl, rfl, by decide, by decide, by decide, _, rfl, rfl, rfl, by decide⟩

/-- An idle block without a command to come, and one that is still reset once; a block that waits for a command has not
ended well, nor has a busy one. -/
theorem witness_EndedRunStaysSilent :
    cfg3.valid = true ∧ (idle ready [Inputs.quiet]).EndedWell ∧
    noReset ((idle ready [Inputs.quiet]).inputs.take 2) = true ∧
    (idle ready [{ Inputs.quiet with reset := true }]).EndedWell ∧
    ¬(idle ready [offer 0]).EndedWell ∧ ¬(inFlight 1 ready []).EndedWell :=
  ⟨by decide, ⟨rfl, by decide⟩, by decide, ⟨rfl, by decide⟩, fun h => absurd h.2 (by decide), fun h => nomatch h.1⟩

end Sys2Proof.Tests
end

section
/-! The scope family (spec/00_scope.md): which configurations have runs. -/

namespace Sys2Proof.Machine

/-- Settles O4: validity in numbers, and the refusal of the first step, which ends every run of at least one step. -/
theorem invalidConfigurationHasNoRun : Obligations.InvalidConfigurationHasNoRun := by
  refine ⟨Config.valid_iff, fun cfg s hv => ?_⟩
  have hstep : stepWith cfg s = .refused .invalidConfig := stepWith_invalid hv s
  exact ⟨hstep, fun _ => run_succ_refused hstep⟩

end Sys2Proof.Machine
end

section
/-! The state family (spec/10_state.md), first part: the byte streams by length and position (R31), the invariant of
R29 and the exactness of TX (R48), each kept by every event and so by every step. -/

namespace Sys2Proof.Machine

/-! ### The byte streams (R31) -/

/-- R31's length column, by the kind of command. -/
theorem stream_length (cfg : Config) (i : Instr) :
    (stream cfg i).length =
      if selfContained i then 2 * cfg.frameSize + 4 * cfg.chainLength else if fragment i then 4 else cfg.frameSize := by
  cases i with
  | sendStart c => exact delimStart_length cfg
  | sendEnd c => exact delimEnd_length cfg
  | init c => exact transaction_length cfg _ rfl
  | setOne c => rfl
  | setAll c => exact transaction_length cfg _ rfl
  | turnOff c => rfl
  | turnAllOff c => exact transaction_length cfg _ rfl

/-- No command of a valid build is silent. -/
theorem stream_length_pos {cfg : Config} (hv : cfg.valid = true) (i : Instr) : 1 ≤ (stream cfg i).length := by
  obtain ⟨hN, hF⟩ := cfg.valid_iff.mp hv
  rw [stream_length]
  split_ifs <;> omega

/-- No command of a valid build sends more bytes than a self-contained one. -/
theorem stream_length_le {cfg : Config} (hv : cfg.valid = true) (i : Instr) :
    (stream cfg i).length ≤ 2 * cfg.frameSize + 4 * cfg.chainLength := by
  obtain ⟨hN, hF⟩ := cfg.valid_iff.mp hv
  rw [stream_length]
  split_ifs <;> omega

/-- The byte of repeated four-byte frames at a position. -/
theorem copies_getElem? {frame : List Byte} (h4 : frame.length = 4) {n p : Nat} (hp : p < 4 * n) :
    (copies n frame)[p]? = frame[p % 4]? := by
  induction n generalizing p with
  | zero => omega
  | succ n ih =>
    rw [copies_succ]
    by_cases hfirst : p < 4
    · rw [List.getElem?_append_left (by omega), Nat.mod_eq_of_lt hfirst]
    · rw [List.getElem?_append_right (by omega), h4, ih (by omega), ← Nat.mod_eq_sub_mod (by omega)]

/-- The byte of a transaction of four-byte frames at a position: delimiter, frames, delimiter. -/
theorem transaction_getElem? {cfg : Config} {frame : List Byte} (h4 : frame.length = 4) {p : Nat}
    (hp : p < 2 * cfg.frameSize + 4 * cfg.chainLength) :
    (transaction cfg frame)[p]? = some (if p < cfg.frameSize then cfg.startMarker
      else if p < cfg.frameSize + 4 * cfg.chainLength then frame.getD ((p - cfg.frameSize) % 4) 0
      else cfg.endMarker) := by
  have hlen : (copies cfg.chainLength frame).length = 4 * cfg.chainLength := by rw [copies_length, h4, Nat.mul_comm]
  rw [transaction, List.append_assoc]
  split_ifs with hstart hframes
  · rw [List.getElem?_append_left (by simpa using hstart)]
    simp [delimStart, hstart]
  · rw [List.getElem?_append_right (by simpa using hstart), delimStart_length,
      List.getElem?_append_left (by omega), copies_getElem? h4 (by omega)]
    have hin : (p - cfg.frameSize) % 4 < frame.length := by omega
    simp [List.getD, hin]
  · rw [List.getElem?_append_right (by simpa using hstart), delimStart_length,
      List.getElem?_append_right (by omega), hlen, delimEnd, List.getElem?_replicate, if_pos (by omega)]

/-! ### The invariant of R29 -/

/-- R29 (c). -/
theorem State.Inv.valid {cfg : Config} {s : State} (h : s.Inv cfg) : cfg.valid = true := h.1

/-- The command in flight has a byte left. -/
theorem State.Inv.pos_lt {cfg : Config} {s : State} {i : Instr} (h : s.Inv cfg) (hb : s.busy = true)
    (hl : s.latched = some i) : s.pos < (stream cfg i).length := by
  obtain ⟨-, -, hbusy⟩ := h
  obtain ⟨j, hj, hp⟩ := hbusy hb
  obtain rfl : j = i := Option.some.inj (hj.symm.trans hl)
  exact hp

/-- The initial state keeps the invariant, whatever the schedule (R30). -/
theorem inv_reset {cfg : Config} (hv : cfg.valid = true) (p : Inputs) (l : List Inputs) :
    ({ State.reset with port := p, later := l } : State).Inv cfg :=
  ⟨hv, fun _ => rfl, nofun⟩

/-- RESET establishes the invariant (R150). -/
theorem State.Inv.afterReset {cfg : Config} {s : State} (h : s.Inv cfg) : s.afterReset.Inv cfg :=
  ⟨h.valid, fun _ => rfl, nofun⟩

/-- ACCEPT establishes the invariant: no stream of a valid build is empty (R35). -/
theorem State.Inv.accepted {cfg : Config} {s : State} (h : s.Inv cfg) (i : Instr) : (s.accepted i).Inv cfg :=
  ⟨h.valid, nofun, fun _ => ⟨i, State.accepted_latched i s, stream_length_pos h.valid i⟩⟩

/-- EMIT keeps the invariant: POS advances within the stream, and returns to 0 with BUSY at its end (R36). -/
theorem State.Inv.sent {cfg : Config} {s : State} (h : s.Inv cfg) (hb : s.busy = true) (b : Byte) :
    (s.sent b (s.latchedStream cfg).length).Inv cfg := by
  obtain ⟨hv, -, hbusy⟩ := h
  obtain ⟨i, hl, hp⟩ := hbusy hb
  refine ⟨hv, fun hidle => ?_, fun hstill => ⟨i, hl, ?_⟩⟩
  · simp_all [busyAfterEmit, posAfterEmit]
  · simp only [State.sent_busy, State.sent_pos, busyAfterEmit, posAfterEmit, State.latchedStream_of hl] at hstill ⊢
    split_ifs at hstill ⊢
    omega

/-- The outside's move touches nothing that the invariant speaks of. -/
theorem State.Inv.advance {cfg : Config} {s : State} (h : s.Inv cfg) : s.advance.Inv cfg := h

/-- Every step keeps the invariant of R29. -/
theorem State.Inv.stepWith {cfg : Config} {s t : State} (h : s.Inv cfg) (hs : stepWith cfg s = .next t) :
    t.Inv cfg := by
  obtain ⟨-, ⟨-, rfl⟩ | ⟨-, hb, -, b, -, rfl⟩ | ⟨-, -, -, i, -, rfl⟩ | ⟨-, -, rfl⟩⟩ := stepWith_cases hs
  · exact h.afterReset.advance
  · exact (h.sent hb b).advance
  · exact (h.accepted i).advance
  · exact h.advance

/-! ### The exactness of TX (R48) -/

/-- The streams of one more command. -/
theorem streams_append_singleton (cfg : Config) (cmds : List Instr) (i : Instr) :
    streams cfg (cmds ++ [i]) = streams cfg cmds ++ stream cfg i := by
  simp [streams]

/-- EMIT puts its byte at the end of what was sent since the last RESET. -/
theorem State.sent_sinceReset {s : State} (h : s.txMark ≤ s.tx.length) (b : Byte) (n : Nat) :
    (s.sent b n).sinceReset = s.sinceReset ++ [b] :=
  List.drop_append_of_le_length h

/-- TX exact of an idle block. -/
theorem State.traceExact_idle {cfg : Config} {s : State} (hb : s.busy = false) :
    s.TraceExact cfg ↔ s.txMark ≤ s.tx.length ∧ s.sinceReset = streams cfg s.history := by
  simp [State.TraceExact, hb]

/-- TX exact of a block in flight. -/
theorem State.traceExact_busy {cfg : Config} {s : State} (hb : s.busy = true) :
    s.TraceExact cfg ↔ s.txMark ≤ s.tx.length ∧ ∃ earlier i, s.history = earlier ++ [i] ∧ s.latched = some i ∧
      s.sinceReset = streams cfg earlier ++ (stream cfg i).take s.pos := by
  simp [State.TraceExact, hb]

/-- The initial state has sent nothing and accepted nothing. -/
theorem traceExact_reset (cfg : Config) (p : Inputs) (l : List Inputs) :
    ({ State.reset with port := p, later := l } : State).TraceExact cfg :=
  ⟨Nat.le_refl 0, rfl⟩

/-- RESET begins the record anew (R150, R154). -/
theorem State.traceExact_afterReset (cfg : Config) (s : State) : s.afterReset.TraceExact cfg :=
  ⟨Nat.le_refl _, List.drop_length⟩

/-- ACCEPT of an idle block sends nothing and begins the next stream at POS 0 (R35). -/
theorem State.TraceExact.accepted {cfg : Config} {s : State} (h : s.TraceExact cfg) (hb : s.busy = false) (i : Instr) :
    (s.accepted i).TraceExact cfg := by
  obtain ⟨hm, hx⟩ := (State.traceExact_idle hb).mp h
  refine (State.traceExact_busy rfl).mpr ⟨hm, s.history, i, rfl, State.accepted_latched i s, ?_⟩
  rw [State.accepted_pos, List.take_zero, List.append_nil]
  exact hx

/-- EMIT sends the next byte of the command in flight, and with the last one its stream is complete (R36). -/
theorem State.TraceExact.sent {cfg : Config} {s : State} {b : Byte} (h : s.TraceExact cfg) (hb : s.busy = true)
    (hbyte : (s.latchedStream cfg)[s.pos]? = some b) :
    (s.sent b (s.latchedStream cfg).length).TraceExact cfg := by
  obtain ⟨hm, earlier, i, hh, hl, hx⟩ := (State.traceExact_busy hb).mp h
  rw [State.latchedStream_of hl] at hbyte ⊢
  have hmark : s.txMark ≤ (s.tx ++ [b]).length := by rw [List.length_append]; omega
  have hsent : (s.sent b (stream cfg i).length).sinceReset =
      streams cfg earlier ++ (stream cfg i).take (s.pos + 1) := by
    rw [State.sent_sinceReset hm, hx, List.append_assoc, List.take_add_one, hbyte, Option.toList_some]
  by_cases hlast : s.pos + 1 = (stream cfg i).length
  · refine (State.traceExact_idle (by simp [busyAfterEmit, hlast])).mpr ⟨hmark, ?_⟩
    rw [hsent, hlast, List.take_length, State.sent_history, hh, streams_append_singleton]
  · refine (State.traceExact_busy (by simp [busyAfterEmit, hlast])).mpr ⟨hmark, earlier, i, hh, hl, ?_⟩
    rw [hsent, State.sent_pos, posAfterEmit, if_neg hlast]

/-- The outside's move touches nothing that the exactness of TX speaks of. -/
theorem State.TraceExact.advance {cfg : Config} {s : State} (h : s.TraceExact cfg) : s.advance.TraceExact cfg := h

/-- Every step keeps TX exact. -/
theorem State.TraceExact.stepWith {cfg : Config} {s t : State} (h : s.TraceExact cfg)
    (hs : stepWith cfg s = .next t) : t.TraceExact cfg := by
  obtain ⟨-, ⟨-, rfl⟩ | ⟨-, hb, -, b, hbyte, rfl⟩ | ⟨-, hb, -, i, -, rfl⟩ | ⟨-, -, rfl⟩⟩ := stepWith_cases hs
  · exact (s.traceExact_afterReset cfg).advance
  · exact (h.sent hb hbyte).advance
  · exact (h.accepted hb i).advance
  · exact h.advance

/-! ### The statements -/

/-- Settles O32: each event establishes or keeps R29; the host's step is the one of the built configuration. -/
theorem stepKeepsStateInvariants : Obligations.StepKeepsStateInvariants :=
  ⟨fun _ _ _ h hs => h.stepWith hs, fun _ _ h hs => h.stepWith hs⟩

/-- Settles O34: each event establishes or keeps R48; the host's step is the one of the built configuration. -/
theorem stepKeepsTraceExact : Obligations.StepKeepsTraceExact :=
  ⟨fun _ _ _ h hs => h.stepWith hs, fun _ _ h hs => h.stepWith hs⟩

/-- Settles O31. -/
theorem resetKeepsInvariants : Obligations.ResetKeepsInvariants :=
  ⟨Config.built_valid, fun cfg p l hv => ⟨inv_reset hv p l, traceExact_reset cfg p l⟩⟩

/-- Settles O33: the induction over a run, from O31's base case and O32's step. -/
theorem reachableStatesKeepInvariants : Obligations.ReachableStatesKeepInvariants :=
  fun cfg p l _ _ hv hrun => run_keeps (·.Inv cfg) (fun _ _ h hs => h.stepWith hs) (inv_reset hv p l) hrun

/-- Settles O40: POS is below the length of a stream, and no stream is longer than a self-contained command's. -/
theorem posFitsItsCounter : Obligations.PosFitsItsCounter := by
  intro cfg s h
  have hle : s.pos + 1 ≤ 2 * cfg.frameSize + 4 * cfg.chainLength := by
    obtain ⟨hv, hidle, hbusy⟩ := h
    cases hb : s.busy with
    | false =>
      obtain ⟨hN, hF⟩ := cfg.valid_iff.mp hv
      rw [hidle hb]
      omega
    | true =>
      obtain ⟨i, -, hp⟩ := hbusy hb
      have hlen := stream_length_le hv i
      omega
  exact ⟨hle, fun w hw => by omega⟩

/-- Settles O21. -/
theorem streamLengths : Obligations.StreamLengths := by
  intro cfg c
  exact ⟨stream_length cfg (.sendStart c), stream_length cfg (.sendEnd c), stream_length cfg (.init c),
    stream_length cfg (.setOne c), stream_length cfg (.setAll c), stream_length cfg (.turnOff c),
    stream_length cfg (.turnAllOff c), fun hv i => stream_length_pos hv i⟩

/-- Settles O22: the three streams are transactions of four-byte frames. -/
theorem selfContainedByteAtPosition : Obligations.SelfContainedByteAtPosition :=
  fun _ _ _ hp => ⟨transaction_getElem? rfl hp, transaction_getElem? rfl hp, transaction_getElem? rfl hp⟩

end Sys2Proof.Machine
end

section
/-! The state family (spec/10_state.md), second part: what one event does to each field (R21 to R24, R35 to R37), and
what no event reads. -/

namespace Sys2Proof.Machine

/-! ### The refusals (R131) -/

/-- EMIT is not enabled in an idle block (R39, log 13). -/
theorem emit_idle {s : State} (hb : s.busy = false) (cfg : Config) : emit cfg s = .next s := by
  simp [emit, emitFrom, hb]

/-- EMIT of a block that breaks R29 (log 12). -/
theorem emit_noByte {cfg : Config} {s : State} (hb : s.busy = true) (h : (s.latchedStream cfg)[s.pos]? = none) :
    emit cfg s = .refused .noByteAtPos := by
  simp [emit, emitFrom, hb, h]

/-- Everything EMIT can be refused for. -/
theorem emit_refused {cfg : Config} {s : State} {x : Refusal} (h : emit cfg s = .refused x) :
    s.busy = true ∧ (s.latchedStream cfg)[s.pos]? = none ∧ x = .noByteAtPos := by
  cases hb : s.busy with
  | false => cases (emit_idle hb cfg).symm.trans h
  | true =>
    cases hbyte : (s.latchedStream cfg)[s.pos]? with
    | some b => cases (emit_busy hb hbyte).symm.trans h
    | none =>
      cases (emit_noByte hb hbyte).symm.trans h
      exact ⟨rfl, rfl, rfl⟩

/-- The outside's move makes no refusal and hides none. -/
theorem thenAdvance_refused {r : Result} {x : Refusal} (h : thenAdvance r = .refused x) : r = .refused x := by
  cases r <;> cases h
  rfl

/-- A reserved word at the handshake (R64, R131 a). -/
theorem stepWith_reserved {cfg : Config} {s : State} {op : Byte} (hv : cfg.valid = true) (hr : s.port.reset = false)
    (hb : s.busy = false) (hc : s.port.cmdValid = true) (hd : decode s.port.cmdWord = .reserved op) :
    stepWith cfg s = .refused (.reservedOpcode op) := by
  simp [stepWith, State.event, hv, hr, hb, hc, hd]

/-- EMIT in a state that R29 rules out (log 12). -/
theorem stepWith_noByte {cfg : Config} {s : State} (hv : cfg.valid = true) (hr : s.port.reset = false)
    (hb : s.busy = true) (ht : s.port.txReady = true) (hbyte : (s.latchedStream cfg)[s.pos]? = none) :
    stepWith cfg s = .refused .noByteAtPos := by
  simp [stepWith, State.event, hv, hr, hb, ht, emit_noByte hb hbyte, thenAdvance]

/-- A step is refused for an invalid build, for an EMIT without a byte at POS, or for a reserved word, and for nothing
else. -/
theorem stepWith_refused_iff {cfg : Config} {s : State} {x : Refusal} :
    stepWith cfg s = .refused x ↔
      (cfg.valid = false ∧ x = .invalidConfig) ∨
      (cfg.valid = true ∧ s.port.reset = false ∧ s.busy = true ∧ s.port.txReady = true ∧
        (s.latchedStream cfg)[s.pos]? = none ∧ x = .noByteAtPos) ∨
      (cfg.valid = true ∧ s.port.reset = false ∧ s.busy = false ∧ s.port.cmdValid = true ∧
        ∃ op, decode s.port.cmdWord = .reserved op ∧ x = .reservedOpcode op) := by
  constructor
  · intro h
    unfold stepWith State.event at h
    split_ifs at h with hv hr hb ht hc
    · cases h
    · obtain ⟨-, hbyte, rfl⟩ := emit_refused (thenAdvance_refused h)
      exact .inr (.inl ⟨hv, by simpa using hr, hb, ht, hbyte, rfl⟩)
    · cases h
    · cases hd : decode s.port.cmdWord with
      | command i =>
        rw [hd] at h
        have hacc := thenAdvance_refused h
        rw [exec_eq_accept, accept_idle (by simpa using hb)] at hacc
        cases hacc
      | reserved op =>
        rw [hd] at h
        cases h
        exact .inr (.inr ⟨hv, by simpa using hr, by simpa using hb, hc, op, rfl, rfl⟩)
    · cases h
    · cases h
      exact .inl ⟨by simpa using hv, rfl⟩
  · rintro (⟨hv, rfl⟩ | ⟨hv, hr, hb, ht, hbyte, rfl⟩ | ⟨hv, hr, hb, hc, op, hd, rfl⟩)
    · exact stepWith_invalid hv s
    · exact stepWith_noByte hv hr hb ht hbyte
    · exact stepWith_reserved hv hr hb hc hd

/-! ### ACCEPT and EMIT -/

/-- A word with a defined opcode is a command (R63). -/
theorem decode_of_opField_lt {w : CmdWord} (h : (opField w).toNat < 7) : ∃ i, decode w = .command i := by
  cases hi : Instr.ofFields (opField w) (colorField w) with
  | some i => exact ⟨i, by simp [decode, hi]⟩
  | none => exact absurd (Instr.ofFields_eq_none.mp hi) (by omega)

/-- A word with a reserved opcode is none (R64). -/
theorem decode_of_le_opField {w : CmdWord} (h : 7 ≤ (opField w).toNat) : decode w = .reserved (opField w) := by
  simp [decode, Instr.ofFields_eq_none.mpr h]

/-- An idle block runs the command on its port (R35), and the outside moves on. -/
theorem stepWith_eq_exec {cfg : Config} {s : State} {i : Instr} (hv : cfg.valid = true) (hr : s.port.reset = false)
    (hb : s.busy = false) (hc : s.port.cmdValid = true) (hd : decode s.port.cmdWord = .command i) :
    stepWith cfg s = thenAdvance (exec i s) := by
  rw [stepWith_accept hv hr hb hc hd, exec_eq_accept, accept_idle hb, thenAdvance]

/-- A table row that is a command fits on the port and decodes to it there. -/
theorem decodeTableWord_eq_some {nbits w : Nat} {i : Instr} (h : decodeTableWord nbits w = some i) :
    ∃ cw, tableWord nbits w = some cw ∧ decode cw = .command i := by
  unfold decodeTableWord at h
  split at h
  · cases h
  · next cw hcw =>
    split at h
    · next j hj => cases h; exact ⟨cw, hcw, hj⟩
    · cases h

/-- A word that fits stands on the port of the block made idle (log 17). -/
theorem State.withFetchWord_of_fits {nbits w : Nat} {cw : CmdWord} (h : tableWord nbits w = some cw) (s : State) :
    s.withFetchWord nbits w =
      { s with busy := false, pos := 0, port := { s.port with reset := false, cmdValid := true, cmdWord := cw } } := by
  simp [State.withFetchWord, State.present, h]

/-- The output `tx_byte` of a block in flight is the byte at POS (R38). -/
theorem State.txByte_of_byte {cfg : Config} {s : State} {b : Byte} (hb : s.busy = true)
    (hbyte : (s.latchedStream cfg)[s.pos]? = some b) : s.txByte cfg = b := by
  simp [State.txByte, hb, hbyte]

/-- Settles O1. -/
theorem resetLeavesBlockIdle : Obligations.ResetLeavesBlockIdle :=
  ⟨⟨rfl, rfl, rfl⟩, fun _ _ hv hr => ⟨_, stepWith_reset hv hr, rfl, rfl, rfl⟩⟩

/-- Settles O5: a defined opcode decodes and is accepted, a reserved one is refused. -/
theorem acceptLatchesPresentedWord : Obligations.AcceptLatchesPresentedWord := by
  intro cfg s hv hr hb hc
  constructor
  · intro hop
    obtain ⟨i, hd⟩ := decode_of_opField_lt hop
    obtain ⟨hopcode, hcolor⟩ := decode_command hd
    exact ⟨_, stepWith_accept hv hr hb hc hd, hopcode, congrArg Color.r hcolor, congrArg Color.g hcolor,
      congrArg Color.b hcolor, congrArg Color.i hcolor, rfl, rfl, rfl⟩
  · intro hop
    exact stepWith_reserved hv hr hb hc (decode_of_le_opField hop)

/-- Settles O6: under R29 the stream has a byte at POS, so the step is EMIT or waits. -/
theorem emitSendsByteAtPos : Obligations.EmitSendsByteAtPos := by
  intro cfg s i hinv hb hl hr
  constructor
  · intro ht
    obtain ⟨b, hbyte⟩ := hinv.next_byte hb
    have hstep := stepWith_emit hinv.valid hr hb ht hbyte
    rw [State.latchedStream_of hl] at hbyte hstep
    refine ⟨b, _, hbyte, hstep, rfl, rfl, rfl, fun hlast => ?_, fun hmore => ?_⟩
    · simp [busyAfterEmit, posAfterEmit, hlast]
    · simp [busyAfterEmit, posAfterEmit, hmore]
  · intro ht t hs
    cases (stepWith_wait hinv.valid hr (.inl ⟨hb, ht⟩)).symm.trans hs
    exact ⟨rfl, hb, rfl⟩

/-- Settles O7: first for a word on the port, of which a word placed there is a case. -/
theorem stepRunsDecodedCommand : Obligations.StepRunsDecodedCommand := by
  constructor
  · intro s i hr hb hc hd
    exact ⟨stepWith_eq_exec Config.built_valid hr hb hc hd, fun _ hv => stepWith_eq_exec hv hr hb hc hd⟩
  · intro s w i hw
    obtain ⟨cw, hfits, hd⟩ := decodeTableWord_eq_some hw
    rw [State.withFetchWord_of_fits hfits]
    exact ⟨stepWith_eq_exec Config.built_valid rfl rfl rfl hd, fun _ hv => stepWith_eq_exec hv rfl rfl rfl hd⟩

/-- Settles O8: every command's meaning is its ACCEPT. -/
theorem execFrame : Obligations.ExecFrame := by
  intro i s t h
  rw [exec_eq_accept] at h
  obtain ⟨hb, rfl⟩ | ⟨hb, rfl⟩ := accept_cases h
  · simp [hb]
  · simp [hb]

/-- Settles O9. -/
theorem emitFrame : Obligations.EmitFrame := by
  intro cfg s t h
  obtain ⟨-, rfl⟩ | ⟨-, b, -, rfl⟩ := emit_cases h
  · exact ⟨rfl, rfl, rfl, rfl, rfl, rfl, rfl, .inl rfl⟩
  · exact ⟨rfl, rfl, rfl, rfl, rfl, rfl, rfl, .inr ⟨b, rfl⟩⟩

/-- Settles O49: the byte at POS is there under R29, is what tx_byte shows, and is what EMIT sends. -/
theorem outputsFollowState : Obligations.OutputsFollowState := by
  refine ⟨fun _ => ⟨rfl, rfl, rfl⟩, fun cfg s hinv hb => ?_⟩
  obtain ⟨b, hbyte⟩ := hinv.next_byte hb
  rw [State.txByte_of_byte hb hbyte]
  exact ⟨hbyte, _, emit_busy hb hbyte, rfl⟩

/-! ### What a step writes -/

/-- Settles O37: of the four things a step can do only EMIT writes TX. -/
theorem onlyEmitAppendsToTrace : Obligations.OnlyEmitAppendsToTrace := by
  intro cfg s t h
  obtain ⟨-, ⟨hr, rfl⟩ | ⟨hr, hb, ht, b, hbyte, rfl⟩ | ⟨-, hb, -, i, -, rfl⟩ | ⟨-, hwait, rfl⟩⟩ := stepWith_cases h
  · exact .inl ⟨rfl, by simp [hr]⟩
  · exact .inr ⟨hr, hb, ht, b, hbyte, rfl⟩
  · exact .inl ⟨rfl, by simp [hb]⟩
  · obtain ⟨-, ht⟩ | ⟨hb, -⟩ := hwait
    · exact .inl ⟨rfl, by simp [ht]⟩
    · exact .inl ⟨rfl, by simp [hb]⟩

/-- Settles O38. -/
theorem busyAfterEveryStep : Obligations.BusyAfterEveryStep := by
  refine ⟨rfl, fun _ => rfl, fun cfg s t h => ?_⟩
  obtain ⟨-, ⟨hr, rfl⟩ | ⟨hr, hb, ht, b, -, rfl⟩ | ⟨hr, hb, hc, i, -, rfl⟩ | ⟨hr, hwait, rfl⟩⟩ := stepWith_cases h
  · simp [hr]
  · simp [hr, hb, ht, busyAfterEmit]
  · simp [hr, hb, hc]
  · obtain ⟨hb, ht⟩ | ⟨hb, hc⟩ := hwait
    · simp [hr, hb, ht]
    · simp [hr, hb, hc]

/-- Settles O39. -/
theorem posAfterEveryStep : Obligations.PosAfterEveryStep := by
  intro cfg s t h
  obtain ⟨-, ⟨hr, rfl⟩ | ⟨hr, hb, ht, b, -, rfl⟩ | ⟨hr, hb, hc, i, -, rfl⟩ | ⟨hr, hwait, rfl⟩⟩ := stepWith_cases h
  · simp [hr]
  · simp [hr, hb, ht, posAfterEmit]
  · simp [hr, hb, hc]
  · obtain ⟨hb, ht⟩ | ⟨hb, hc⟩ := hwait
    · simp [hr, hb, ht]
    · simp [hr, hb, hc]

/-- Settles O41: RESET and ACCEPT, the two events that write the latches, are excluded. -/
theorem latchesHoldUntilNextAccept : Obligations.LatchesHoldUntilNextAccept := by
  intro cfg s t h hr hquiet
  obtain ⟨-, ⟨hr', -⟩ | ⟨-, -, -, b, -, rfl⟩ | ⟨-, hb, hc, -⟩ | ⟨-, -, rfl⟩⟩ := stepWith_cases h
  · simp [hr] at hr'
  · exact ⟨rfl, rfl⟩
  · simp [hb, hc] at hquiet
  · exact ⟨rfl, rfl⟩

/-! ### What no step reads -/

/-- A step reads its inputs only to find its event: the outside's move replaces them. -/
theorem stepWith_port_congr {cfg : Config} {s : State} {p : Inputs}
    (h : ({ s with port := p } : State).event cfg = s.event cfg) :
    stepWith cfg { s with port := p } = stepWith cfg s := by
  unfold stepWith
  rw [h]
  cases s.event cfg with
  | noRun => rfl
  | reset => rfl
  | emit =>
    simp only [emit, emitFrom, State.latchedStream, State.latched]
    split_ifs
    · split <;> rfl
    · rfl
  | accept i =>
    simp only [exec_eq_accept, accept]
    split_ifs <;> rfl
  | reserved op => rfl
  | wait => rfl

/-- The commands other than setOne and setAll have one stream for all colors. -/
theorem State.latchedStream_color {s : State} (h3 : s.op ≠ 0x03#8) (h4 : s.op ≠ 0x04#8) (cfg : Config) (c : Color) :
    ({ s with color := c } : State).latchedStream cfg = s.latchedStream cfg := by
  simp only [State.latchedStream, State.latched, Instr.ofFields, if_neg h3, if_neg h4]
  split_ifs <;> rfl

/-- Settles O43: no event depends on rx_byte. -/
theorem returnedByteIsIgnored : Obligations.ReturnedByteIsIgnored :=
  fun _ _ _ => stepWith_port_congr rfl

/-- Settles O45: RESET and ACCEPT overwrite the latches, waiting keeps them, EMIT is not enabled, and no refusal of an
idle block reads them. -/
theorem idleLatchesAreUnobservable : Obligations.IdleLatchesAreUnobservable := by
  intro cfg s o c hb
  constructor
  · intro t h
    obtain ⟨hv, ⟨hr, rfl⟩ | ⟨-, hbusy, -⟩ | ⟨hr, -, hc, i, hd, rfl⟩ | ⟨hr, hwait, rfl⟩⟩ := stepWith_cases h
    · exact ⟨_, stepWith_reset hv hr, rfl, fun _ => rfl⟩
    · simp [hb] at hbusy
    · exact ⟨_, stepWith_accept hv hr hb hc hd, rfl, fun _ => rfl⟩
    · exact ⟨_, stepWith_wait hv hr hwait, rfl, fun hbusy => by simp [hb] at hbusy⟩
  · intro x h
    obtain hinvalid | ⟨-, -, hbusy, -⟩ | hreserved := stepWith_refused_iff.mp h
    · exact stepWith_refused_iff.mpr (.inl hinvalid)
    · simp [hb] at hbusy
    · exact stepWith_refused_iff.mpr (.inr (.inr hreserved))

/-- Settles O46: the stream of the latches is the same for both colors. -/
theorem colorReadOnlyBySetCommands : Obligations.ColorReadOnlyBySetCommands := by
  intro cfg s t c h3 h4 h
  have hstream := State.latchedStream_color h3 h4 cfg c
  obtain ⟨hb, rfl⟩ | ⟨hb, b, hbyte, rfl⟩ := emit_cases h
  · exact emit_idle (s := { t with color := c }) hb cfg
  · rw [← hstream] at hbyte ⊢
    exact emit_busy hb hbyte

/-- Settles O47: each event is taken with any other records; EMIT appends its one byte to either TX, the others none. -/
theorem traceIsNeverRead : Obligations.TraceIsNeverRead := by
  intro cfg s tx' m'
  constructor
  · intro t h
    obtain ⟨hv, ⟨hr, rfl⟩ | ⟨hr, hb, ht, b, hbyte, rfl⟩ | ⟨hr, hb, hc, i, hd, rfl⟩ | ⟨hr, hwait, rfl⟩⟩ :=
      stepWith_cases h
    · refine ⟨[], (List.append_nil _).symm, ?_⟩
      rw [hr, List.append_nil]
      exact stepWith_reset hv hr
    · refine ⟨[b], rfl, ?_⟩
      rw [hr]
      exact stepWith_emit hv hr hb ht hbyte
    · refine ⟨[], (List.append_nil _).symm, ?_⟩
      rw [hr, List.append_nil]
      exact stepWith_accept hv hr hb hc hd
    · refine ⟨[], (List.append_nil _).symm, ?_⟩
      rw [hr, List.append_nil]
      exact stepWith_wait hv hr hwait
  · intro x h
    have hcause := stepWith_refused_iff.mp h
    exact stepWith_refused_iff.mpr hcause

end Sys2Proof.Machine
end

section
/-! The state family (spec/10_state.md), third part: a command in flight, over EMIT events and over the steps of a
schedule, and the statements about whole commands. -/

namespace Sys2Proof.Machine

/-! ### One event more at the end of a run -/

/-- EMIT events that end with one more. -/
theorem emits_succ_last {cfg : Config} {n : Nat} {s u t : State} (h : emits cfg n s = .next u)
    (ht : emit cfg u = .next t) : emits cfg (n + 1) s = .next t := by
  induction n generalizing s with
  | zero =>
    cases h
    rw [emits_succ ht, emits_zero]
  | succ n ih =>
    cases hs : emit cfg s with
    | next v =>
      rw [emits_succ hs] at h ⊢
      exact ih h
    | fault f => exact f.rec
    | refused x => simp [emits, hs] at h

/-- A run that ends with one more step. -/
theorem run_succ_last {cfg : Config} {n : Nat} {s u t : State} (h : run cfg n s = .next u)
    (ht : stepWith cfg u = .next t) : run cfg (n + 1) s = .next t := by
  induction n generalizing s with
  | zero =>
    cases h
    rw [run_succ ht, run_zero]
  | succ n ih =>
    obtain ⟨v, hv, hrun⟩ := run_succ_next h
    rw [run_succ hv]
    exact ih hrun

/-! ### The schedule of a run (log 7) -/

/-- A step uses up its own inputs and no others. -/
theorem stepWith_inputs {cfg : Config} {s t : State} (h : stepWith cfg s = .next t) :
    t.inputs = s.advance.inputs := by
  obtain ⟨-, ⟨-, rfl⟩ | ⟨-, -, -, b, -, rfl⟩ | ⟨-, -, -, i, -, rfl⟩ | ⟨-, -, rfl⟩⟩ := stepWith_cases h <;> rfl

/-- The inputs of the step after `m` steps are the listed ones. -/
theorem run_port {cfg : Config} {m : Nat} {s t : State} {p : Inputs} (h : run cfg m s = .next t)
    (hp : s.inputs[m]? = some p) : t.port = p := by
  induction m generalizing s with
  | zero =>
    cases h
    exact Option.some.inj hp
  | succ m ih =>
    obtain ⟨u, hu, hrun⟩ := run_succ_next h
    have hlater : s.later[m]? = some p := hp
    have hne : s.later ≠ [] := fun he => by simp [he] at hlater
    refine ih hrun ?_
    rw [stepWith_inputs hu, State.advance_inputs, if_neg hne]
    exact hlater

/-- The acceptances of a schedule, one more at its front. -/
theorem acceptances_cons (p : Inputs) (ins : List Inputs) :
    acceptances (p :: ins) = acceptances ins + if p.txReady then 1 else 0 :=
  List.countP_cons

/-- The acceptances of a schedule, one more at its end. -/
theorem acceptances_take_succ {ins : List Inputs} {m : Nat} {p : Inputs} (hp : ins[m]? = some p) :
    acceptances (ins.take (m + 1)) = acceptances (ins.take m) + if p.txReady then 1 else 0 := by
  simp [acceptances, List.take_add_one, hp, List.countP_append, List.countP_singleton]

/-- A schedule with enough acceptances has a first step by which `k` of them have come. -/
theorem exists_take_acceptances {ins : List Inputs} {k : Nat} (hk : k ≤ acceptances ins) :
    ∃ m ≤ ins.length, acceptances (ins.take m) = k ∧ ∀ j < m, acceptances (ins.take j) < k := by
  induction ins generalizing k with
  | nil => exact ⟨0, Nat.le_refl 0, (Nat.le_zero.mp hk).symm, nofun⟩
  | cons p rest ih =>
    cases k with
    | zero => exact ⟨0, Nat.zero_le _, rfl, nofun⟩
    | succ k =>
      rw [acceptances_cons] at hk
      obtain ⟨m, hm, hsum, hbefore⟩ := ih (k := k + 1 - if p.txReady then 1 else 0) (by omega)
      refine ⟨m + 1, Nat.succ_le_succ hm, ?_, fun j hj => ?_⟩
      · rw [List.take_succ_cons, acceptances_cons, hsum]
        split_ifs <;> omega
      · cases j with
        | zero => exact Nat.succ_pos k
        | succ j =>
          have hlt := hbefore j (by omega)
          rw [List.take_succ_cons, acceptances_cons]
          omega

/-- A part of a schedule without RESET has none. -/
theorem noReset_take {ins : List Inputs} (h : noReset ins = true) (m : Nat) : noReset (ins.take m) = true := by
  simp only [noReset, List.all_eq_true] at h ⊢
  exact fun p hp => h p (List.mem_of_mem_take hp)

/-- A schedule without RESET, one more step at its end. -/
theorem noReset_take_succ {ins : List Inputs} {m : Nat} {p : Inputs} (hp : ins[m]? = some p) :
    noReset (ins.take (m + 1)) = true ↔ noReset (ins.take m) = true ∧ p.reset = false := by
  simp [noReset, List.take_add_one, hp]

/-! ### A command in flight -/

/-- `t` is `s`, which has command `i` in flight, once `n` more bytes are sent (R36): at the end of the stream the block
is idle, before it the command is still in flight. -/
structure State.HasSent (cfg : Config) (i : Instr) (s : State) (n : Nat) (t : State) : Prop where
  busy : t.busy = decide (s.pos + n < (stream cfg i).length)
  pos : t.pos = if s.pos + n < (stream cfg i).length then s.pos + n else 0
  op : t.op = s.op
  color : t.color = s.color
  history : t.history = s.history
  tx : t.tx = s.tx ++ ((stream cfg i).drop s.pos).take n

section
variable {cfg : Config} {i : Instr} {s t : State} {n : Nat}

/-- No byte sent yet. -/
theorem State.HasSent.refl (hb : s.busy = true) (hp : s.pos < (stream cfg i).length) : s.HasSent cfg i 0 s where
  busy := by simp [hb, hp]
  pos := by simp [hp]
  op := rfl
  color := rfl
  history := rfl
  tx := by simp

/-- The latches still hold the command. -/
theorem State.HasSent.latched (h : s.HasSent cfg i n t) (hl : s.latched = some i) : t.latched = some i := by
  rw [State.latched, h.op, h.color]
  exact hl

/-- The outside's move touches nothing of it. -/
theorem State.HasSent.advance (h : s.HasSent cfg i n t) : s.HasSent cfg i n t.advance :=
  ⟨h.busy, h.pos, h.op, h.color, h.history, h.tx⟩

/-- All the bytes that were left are sent: the block is idle and the rest of the stream is out. -/
theorem State.HasSent.complete (h : s.HasSent cfg i n t) (hn : s.pos + n = (stream cfg i).length) :
    t.busy = false ∧ t.pos = 0 ∧ t.tx = s.tx ++ (stream cfg i).drop s.pos := by
  refine ⟨by simp [h.busy, hn], by simp [h.pos, hn], ?_⟩
  rw [h.tx, List.take_of_length_le (by rw [List.length_drop]; omega)]

/-- While bytes are left the block is in flight, with a byte at POS. -/
theorem State.HasSent.in_flight (h : s.HasSent cfg i n t) (hl : s.latched = some i)
    (hn : s.pos + n < (stream cfg i).length) :
    t.busy = true ∧ (t.latchedStream cfg)[t.pos]? = some (stream cfg i)[s.pos + n] := by
  refine ⟨by simp [h.busy, hn], ?_⟩
  rw [State.latchedStream_of (h.latched hl), h.pos, if_pos hn, List.getElem?_eq_getElem hn]

/-- EMIT sends the next of the bytes that are left. -/
theorem State.HasSent.sent (h : s.HasSent cfg i n t) (hn : s.pos + n < (stream cfg i).length) :
    s.HasSent cfg i (n + 1) (t.sent (stream cfg i)[s.pos + n] (stream cfg i).length) where
  busy := by
    simp only [State.sent_busy, busyAfterEmit, h.pos, if_pos hn]
    split_ifs with hlast <;> simp <;> omega
  pos := by
    simp only [State.sent_pos, posAfterEmit, h.pos, if_pos hn]
    split_ifs <;> omega
  op := h.op
  color := h.color
  history := h.history
  tx := by
    rw [State.sent_tx, h.tx, List.append_assoc, List.take_add_one, List.getElem?_drop, List.getElem?_eq_getElem hn,
      Option.toList_some]

end

/-- EMIT events send the bytes that are left, one each. -/
theorem emits_hasSent {cfg : Config} {i : Instr} {s : State} (hb : s.busy = true) (hl : s.latched = some i)
    (hp : s.pos < (stream cfg i).length) {n : Nat} (hn : s.pos + n ≤ (stream cfg i).length) :
    ∃ t, emits cfg n s = .next t ∧ s.HasSent cfg i n t := by
  induction n with
  | zero => exact ⟨s, rfl, .refl hb hp⟩
  | succ n ih =>
    obtain ⟨u, hu, hsent⟩ := ih (by omega)
    obtain ⟨hbusy, hbyte⟩ := hsent.in_flight hl (by omega)
    refine ⟨_, emits_succ_last hu (emit_busy hbusy hbyte), ?_⟩
    rw [State.latchedStream_of (hsent.latched hl)]
    exact hsent.sent (by omega)

/-- A step of a command in flight sends a byte exactly if the transport is ready. -/
theorem State.HasSent.step {cfg : Config} {i : Instr} {s u : State} {n : Nat} (h : s.HasSent cfg i n u)
    (hv : cfg.valid = true) (hl : s.latched = some i) (hn : s.pos + n < (stream cfg i).length)
    (hr : u.port.reset = false) :
    ∃ t, stepWith cfg u = .next t ∧ s.HasSent cfg i (n + if u.port.txReady then 1 else 0) t := by
  obtain ⟨hb, hbyte⟩ := h.in_flight hl hn
  cases ht : u.port.txReady with
  | false => exact ⟨_, stepWith_wait hv hr (.inl ⟨hb, ht⟩), h.advance⟩
  | true =>
    refine ⟨_, stepWith_emit hv hr hb ht hbyte, ?_⟩
    rw [State.latchedStream_of (h.latched hl)]
    exact (h.sent hn).advance

/-- While a command is in flight, the steps of a schedule without RESET send one byte for each acceptance. -/
theorem run_hasSent {cfg : Config} {i : Instr} {s : State} (hinv : s.Inv cfg) (hb : s.busy = true)
    (hl : s.latched = some i) {m : Nat} (hm : m ≤ s.inputs.length) (hr : noReset (s.inputs.take m) = true)
    (hleft : ∀ k < m, s.pos + acceptances (s.inputs.take k) < (stream cfg i).length) :
    ∃ t, run cfg m s = .next t ∧ s.HasSent cfg i (acceptances (s.inputs.take m)) t := by
  induction m with
  | zero => exact ⟨s, rfl, .refl hb (hinv.pos_lt hb hl)⟩
  | succ m ih =>
    have hp : s.inputs[m]? = some s.inputs[m] := List.getElem?_eq_getElem hm
    obtain ⟨hbefore, hnow⟩ := (noReset_take_succ hp).mp hr
    obtain ⟨u, hu, hsent⟩ := ih (by omega) hbefore (fun k hk => hleft k (by omega))
    have hport := run_port hu hp
    obtain ⟨t, ht, hsent'⟩ := hsent.step hinv.valid hl (hleft m (by omega)) (by rw [hport, hnow])
    refine ⟨t, run_succ_last hu ht, ?_⟩
    rw [acceptances_take_succ hp, ← hport]
    exact hsent'

/-! ### A whole command -/

/-- A command just accepted is sent exactly, byte by byte (R35, R36). -/
theorem emitsExactly_stream {cfg : Config} {i : Instr} {t : State} (hv : cfg.valid = true) (hb : t.busy = true)
    (hp : t.pos = 0) (hl : t.latched = some i) : EmitsExactly cfg t (stream cfg i) := by
  have hpos : t.pos < (stream cfg i).length := hp ▸ stream_length_pos hv i
  constructor
  · intro k hk
    obtain ⟨u, hu, hsent⟩ := emits_hasSent (n := k) hb hl hpos (by omega)
    refine ⟨u, hu, ?_, ?_, ?_, hsent.op, hsent.color⟩
    · simpa [hp] using hsent.tx
    · simp [hsent.busy, hp, hk]
    · simp [hsent.pos, hp, hk]
  · obtain ⟨u, hu, hsent⟩ := emits_hasSent (n := (stream cfg i).length) hb hl hpos (by omega)
    obtain ⟨hidle, hpos', htx⟩ := hsent.complete (by omega)
    refine ⟨u, hu, ?_, hidle, hpos', hsent.op, hsent.color⟩
    simpa [hp] using htx

/-- Every command, from every idle state of a valid build, runs as ACCEPT and then its own stream. -/
theorem runsAs_stream {cfg : Config} {s : State} (hv : cfg.valid = true) (hb : s.busy = false) (i : Instr) :
    RunsAs cfg s i i.opcode i.color (stream cfg i) :=
  ⟨s.accepted i, (exec_eq_accept i s).trans (accept_idle hb), rfl, rfl, rfl, rfl, rfl,
    emitsExactly_stream hv rfl rfl (State.accepted_latched i s)⟩

/-- A command run to its end has appended its stream, and the block is idle. -/
theorem issue_stream {cfg : Config} {s : State} (hv : cfg.valid = true) (hb : s.busy = false) (i : Instr) :
    ∃ u, issue cfg i s = .next u ∧ u.tx = s.tx ++ stream cfg i ∧ u.busy = false := by
  obtain ⟨t, ht, -, -, -, -, htx, -, u, hu, hutx, hidle, -⟩ := runsAs_stream hv hb i
  exact ⟨u, by simp only [issue, ht, hu], by rw [hutx, htx], hidle⟩

/-- Settles O26: the bytes are the stream of the command. -/
theorem commandBytesDependOnNothingElse : Obligations.CommandBytesDependOnNothingElse := by
  intro cfg s t i hv hs ht
  obtain ⟨u, hu, hutx, hub⟩ := issue_stream hv hs i
  obtain ⟨v, hv', hvtx, hvb⟩ := issue_stream hv ht i
  exact ⟨stream cfg i, u, v, hu, hv', hutx, hvtx, hub, hvb, stream_length_pos hv i⟩

/-! ### Commands under a schedule -/

/-- Settles O50: the command completes at the first step by which as many acceptances have come as bytes were left. -/
theorem commandInFlightCompletes : Obligations.CommandInFlightCompletes := by
  intro cfg s i hinv hb hl hr hacc
  have hp := hinv.pos_lt hb hl
  obtain ⟨m, hm, hsum, hbefore⟩ := exists_take_acceptances hacc
  obtain ⟨t, ht, hsent⟩ := run_hasSent hinv hb hl hm (noReset_take hr m) fun k hk => by
    have hlt := hbefore k hk
    omega
  exact ⟨m, hm, t, ht, hsent.complete (by omega)⟩

/-- Settles O51: one step accepts the command, and O50 speaks of the state after it. -/
theorem presentedCommandCompletes : Obligations.PresentedCommandCompletes := by
  intro cfg s i hinv hb hc hd hr hacc
  have hport : s.port.reset = false := by
    simp only [noReset, State.inputs_eq, List.all_cons, Bool.and_eq_true] at hr
    simpa using hr.1
  have hlater : s.later ≠ [] := by
    intro hnil
    rw [hnil] at hacc
    exact absurd ((stream_length_pos hinv.valid i).trans hacc) (by decide)
  have haccept := stepWith_accept hinv.valid hport hb hc hd
  have hinputs : (s.accepted i).advance.inputs = s.later :=
    (stepWith_inputs haccept).trans ((State.advance_inputs s).trans (if_neg hlater))
  obtain ⟨n, hn, t, ht, hidle, hpos, htx⟩ := commandInFlightCompletes cfg (s.accepted i).advance i
    (hinv.stepWith haccept) rfl (State.accepted_latched i s) (State.advance_noReset hr)
    (by rw [hinputs]; exact (Nat.sub_le _ _).trans hacc)
  refine ⟨n + 1, ?_, t, (run_succ haccept).trans ht, hidle, hpos, htx⟩
  rw [hinputs] at hn
  exact Nat.succ_le_succ hn

/-- Settles O53: the command in flight ends with the `m`-th step, and the step after it is an ACCEPT. -/
theorem heldCommandIsAcceptedNext : Obligations.HeldCommandIsAcceptedNext := by
  rintro cfg s i j m hinv hb hl hr hall hbefore ⟨p, hp, hpr, hpc, hpd⟩
  have hm : m < s.inputs.length := (List.getElem?_eq_some_iff.mp hp).1
  constructor
  · intro k hk
    have hrk : noReset (s.inputs.take k) = true := by
      simpa only [List.take_take, Nat.min_eq_left hk] using noReset_take hr k
    obtain ⟨t, ht, hsent⟩ := run_hasSent hinv hb hl (by omega) hrk fun l hl' => hbefore l (by omega)
    refine ⟨t, ht, hsent.history, ?_⟩
    rw [hsent.busy, decide_eq_false_iff_not]
    constructor
    · intro hdone
      by_contra hne
      exact hdone (hbefore k (by omega))
    · rintro rfl
      omega
  · obtain ⟨u, hu, hsent⟩ := run_hasSent hinv hb hl hm.le hr hbefore
    obtain ⟨hidle, -, htx⟩ := hsent.complete hall
    obtain rfl := run_port hu hp
    refine ⟨_, run_succ_last hu (stepWith_accept hinv.valid hpr hidle hpc hpd), rfl, rfl,
      State.accepted_latched j u, ?_, htx⟩
    rw [State.advance_history, State.accepted_history, hsent.history]

end Sys2Proof.Machine
end

section
/-! The memory family (spec/20_memory.md): while a command is in flight its word waits outside the block (R51, R157,
R158). -/

namespace Sys2Proof.Machine

/-- The event of a block in flight: its command port has no part in it, a reserved word on it included (R33, R157,
log 9). -/
theorem State.event_of_busy {s : State} (hb : s.busy = true) (cfg : Config) :
    s.event cfg =
      if cfg.valid then if s.port.reset then .reset else if s.port.txReady then .emit else .wait else .noRun := by
  simp only [State.event, if_pos hb]

/-- Settles O44: both states have the same event, and a step reads its inputs for nothing else. -/
theorem commandPortUnreadWhileBusy : Obligations.CommandPortUnreadWhileBusy := by
  intro cfg s v w hb
  refine stepWith_port_congr ?_
  rw [State.event_of_busy hb, State.event_of_busy]
  exact hb

end Sys2Proof.Machine
end

section
/-! The encoding family (spec/30_encoding.md), first part: a word is its fields, so decoder and encoder are inverse to
each other (R60 to R67), the rows of the opcode table (R63, R64), and the one refusal the block makes (R131). -/

namespace Sys2Proof

/-! ### A word is its five fields (R60) -/

/-- Two words with the same fields are the same: the fields cover all 40 bits. -/
theorem word_eq_of_fields {v w : CmdWord} (hop : opField v = opField w) (hcolor : colorField v = colorField w) :
    v = w := by
  obtain ⟨hr, hg, hb, hi⟩ := Color.mk.inj hcolor
  apply BitVec.eq_of_toNat_eq
  replace hop := congrArg BitVec.toNat hop
  replace hr := congrArg BitVec.toNat hr
  replace hg := congrArg BitVec.toNat hg
  replace hb := congrArg BitVec.toNat hb
  replace hi := congrArg BitVec.toNat hi
  simp only [opField, BitVec.extractLsb'_toNat, Nat.shiftRight_eq_div_pow] at hop hr hg hb hi
  omega

/-- The OP field in numbers. -/
theorem opField_toNat (w : CmdWord) : (opField w).toNat = w.toNat / 2 ^ 32 := by
  simp only [opField, BitVec.extractLsb'_toNat, Nat.shiftRight_eq_div_pow]
  omega

/-! ### Decoder and encoder (R63, R67, R69) -/

/-- What a word decodes to is the command of its fields. -/
theorem decode_eq_command_iff {w : CmdWord} {i : Instr} :
    decode w = .command i ↔ i.opcode = opField w ∧ i.color = colorField w := by
  refine ⟨decode_command, fun ⟨hop, hcolor⟩ => ?_⟩
  rw [decode, ← hop, ← hcolor, Instr.ofFields_opcode_color]

/-- Settles O27: a command's word has the command's fields, and the fields determine both command and word. -/
theorem decodeInvertsEncode : Obligations.DecodeInvertsEncode := by
  constructor
  · intro i
    exact decode_eq_command_iff.mpr ⟨(opField_encodeFields _ _).symm, (colorField_encodeFields _ _).symm⟩
  · intro w i hd
    obtain ⟨hop, hcolor⟩ := decode_command hd
    refine word_eq_of_fields ?_ ?_
    · rw [encode, opField_encodeFields, hop]
    · rw [encode, colorField_encodeFields, hcolor]

/-! ### The opcode table (R63, R64) -/

/-- The table's mask keeps the OP field. -/
theorem opField_and_mask (w : CmdWord) : opField (w &&& 0xFF00000000) = opField w := by
  have hmask : opField 0xFF00000000 = BitVec.allOnes 8 := by decide
  calc opField (w &&& 0xFF00000000)
      = opField w &&& opField 0xFF00000000 := BitVec.extractLsb'_and
    _ = opField w := by rw [hmask, BitVec.and_allOnes]

/-- A word that meets the match of a command's row is that command, with the color of its fields. -/
theorem decode_of_match {w m : CmdWord} {i : Instr} (h : w &&& 0xFF00000000 = m) (hop : i.opcode = opField m)
    (hcolor : i.color = colorField w) : decode w = .command i :=
  decode_eq_command_iff.mpr ⟨by rw [hop, ← h, opField_and_mask], hcolor⟩

/-- Settles O28: the row's match fixes the opcode; from 0x07_00000000 up the opcode is at least 0x07. -/
theorem decodeFollowsOpcodeTable : Obligations.DecodeFollowsOpcodeTable := by
  intro w
  refine ⟨fun h => decode_of_match h rfl rfl, fun h => decode_of_match h rfl rfl, fun h => decode_of_match h rfl rfl,
    fun h => decode_of_match h rfl rfl, fun h => decode_of_match h rfl rfl, fun h => decode_of_match h rfl rfl,
    fun h => decode_of_match h rfl rfl, fun h => Machine.decode_of_le_opField ?_⟩
  have hw : 0x0700000000 ≤ w.toNat := h
  rw [opField_toNat]
  omega

/-- Settles O29, by evaluating the decoder on each word. -/
theorem knownWordsDecode : Obligations.KnownWordsDecode := by
  unfold Obligations.KnownWordsDecode
  decide

/-! ### The refusal of a reserved word (R64, R131 a) -/

/-- Settles O35: of the three causes of a refusal the invariant rules out an invalid build and a missing byte. -/
theorem onlyReservedWordsAreRefused : Obligations.OnlyReservedWordsAreRefused := by
  intro cfg s hinv
  cases hs : Machine.stepWith cfg s with
  | next t => exact .inl ⟨t, rfl⟩
  | fault f => exact f.rec
  | refused x =>
    obtain ⟨hv, -⟩ | ⟨-, -, hb, -, hnone, -⟩ | ⟨-, hr, hb, hc, op, hd, rfl⟩ := Machine.stepWith_refused_iff.mp hs
    · simp [hinv.valid] at hv
    · obtain ⟨b, hbyte⟩ := hinv.next_byte hb
      simp [hnone] at hbyte
    · obtain ⟨rfl, hop⟩ := decode_reserved hd
      exact .inr ⟨hb, hr, hc, hop, rfl⟩

end Sys2Proof
end

section
/-! The encoding family, second part: the assembler reads back the line it writes (R67, log 19). -/

namespace Sys2Proof.Machine

/-! ### Digits and bytes -/

/-- A character at which no text is cut: no blank, no comma, no semicolon. -/
def isPlain (x : Char) : Bool := !isBlank x && x != ',' && x != ';'

/-- A plain character is no blank. -/
theorem isBlank_of_isPlain {x : Char} (h : isPlain x = true) : isBlank x = false := by
  simp only [isPlain, Bool.and_eq_true, Bool.not_eq_true'] at h
  exact h.1.1

/-- A written digit is read as the number it stands for. -/
theorem hexDigit_digitChar : ∀ n < 16, hexDigit (digitChar n) = some n := by decide

/-- A written digit is plain. -/
theorem isPlain_digitChar : ∀ n < 16, isPlain (digitChar n) = true := by decide

/-- A written byte is read as that byte. -/
theorem parseByte_byteText (v : Byte) : parseByte (byteText v) = some v := by
  have hv := v.isLt
  have hhigh : v.toNat / 16 < 16 := by omega
  have hlow : v.toNat % 16 < 16 := by omega
  have hvalue : (0 * 16 + v.toNat / 16) * 16 + v.toNat % 16 = v.toNat := by omega
  simp only [byteText, parseByte, digitsValue, hexDigit_digitChar _ hhigh, hexDigit_digitChar _ hlow, if_pos hhigh,
    if_pos hlow, hvalue, asByte, if_pos hv, BitVec.ofNat_toNat, BitVec.setWidth_eq]

/-! ### Blanks -/

/-- A text that begins with no blank loses nothing there. -/
theorem dropWhile_isBlank_eq_self {cs : List Char} (h : ∀ x ∈ cs.head?, isBlank x = false) :
    cs.dropWhile isBlank = cs := by
  cases cs with
  | nil => rfl
  | cons x rest => exact List.dropWhile_cons_of_neg (by simp [h x rfl])

/-- A text that neither begins nor ends with a blank is left whole. -/
theorem trimBlanks_eq_self {cs : List Char} (hfirst : ∀ x ∈ cs.head?, isBlank x = false)
    (hlast : ∀ x ∈ cs.getLast?, isBlank x = false) : trimBlanks cs = cs := by
  rw [trimBlanks, dropWhile_isBlank_eq_self hfirst, dropWhile_isBlank_eq_self (by rwa [List.head?_reverse]),
    List.reverse_reverse]

/-- A space in front is cut. -/
theorem trimBlanks_space_cons (cs : List Char) : trimBlanks (' ' :: cs) = trimBlanks cs := rfl

/-! ### One operand -/

/-- An operand as `colorText` writes it. -/
def operandText (name : Char) (v : Byte) : List Char := name :: '=' :: byteText v

/-- All characters of an operand are plain. -/
theorem isPlain_of_mem_operandText {name x : Char} {v : Byte} (hname : isPlain name = true)
    (hx : x ∈ operandText name v) : isPlain x = true := by
  have hv := v.isLt
  simp only [operandText, byteText, List.mem_cons, List.not_mem_nil, or_false] at hx
  obtain rfl | rfl | rfl | rfl | rfl | rfl := hx
  · exact hname
  · decide
  · decide
  · decide
  · exact isPlain_digitChar _ (by omega)
  · exact isPlain_digitChar _ (by omega)

/-- No comma and no semicolon is in an operand. -/
theorem not_mem_operandText {name x : Char} (hname : isPlain name = true) (hx : isPlain x = false) (v : Byte) :
    x ∉ operandText name v :=
  fun hmem => Bool.false_ne_true (hx.symm.trans (isPlain_of_mem_operandText hname hmem))

/-- No blank is cut from an operand. -/
theorem trimBlanks_operandText {name : Char} (hname : isPlain name = true) (v : Byte) :
    trimBlanks (operandText name v) = operandText name v :=
  trimBlanks_eq_self (fun _ hx => isBlank_of_isPlain (isPlain_of_mem_operandText hname (List.mem_of_head? hx)))
    fun _ hx => isBlank_of_isPlain (isPlain_of_mem_operandText hname (List.mem_of_getLast? hx))

/-- A written operand is read as its byte. -/
theorem parseOperand_operandText {name : Char} (hname : isPlain name = true) (v : Byte) :
    parseOperand name (operandText name v) = some v := by
  rw [parseOperand, trimBlanks_operandText hname]
  simp [operandText, parseByte_byteText]

/-- A space in front of an operand makes no difference. -/
theorem parseOperand_space_cons (name : Char) (cs : List Char) :
    parseOperand name (' ' :: cs) = parseOperand name cs := rfl

/-! ### The four operands -/

/-- A text without commas is one piece. -/
theorem splitCommas_eq_singleton {piece : List Char} (h : ',' ∉ piece) : splitCommas piece = [piece] := by
  induction piece with
  | nil => rfl
  | cons x piece ih =>
    obtain ⟨hx, hrest⟩ := not_or.mp (List.mem_cons.not.mp h)
    simp [splitCommas, Ne.symm hx, ih hrest]

/-- What stands before the first comma is the first piece. -/
theorem splitCommas_append_comma {piece : List Char} (h : ',' ∉ piece) (rest : List Char) :
    splitCommas (piece ++ ',' :: rest) = piece :: splitCommas rest := by
  induction piece with
  | nil => simp [splitCommas]
  | cons x piece ih =>
    obtain ⟨hx, hrest⟩ := not_or.mp (List.mem_cons.not.mp h)
    simp [splitCommas, Ne.symm hx, ih hrest]

/-- The operands of a line as `colorText` writes them, without the space before the first. -/
def operandsText (c : Color) : List Char :=
  operandText 'r' c.r ++ ',' :: ((' ' :: operandText 'g' c.g) ++ ',' :: ((' ' :: operandText 'b' c.b) ++ ',' ::
    (' ' :: operandText 'i' c.i)))

/-- The text of a color is its operands after a space. -/
theorem colorText_eq (c : Color) : colorText c = ' ' :: operandsText c := rfl

/-- The commas cut the operands apart. -/
theorem splitCommas_operandsText (c : Color) :
    splitCommas (operandsText c) =
      [operandText 'r' c.r, ' ' :: operandText 'g' c.g, ' ' :: operandText 'b' c.b, ' ' :: operandText 'i' c.i] := by
  have hlater {name : Char} (hname : isPlain name = true) (v : Byte) : ',' ∉ ' ' :: operandText name v :=
    List.not_mem_cons_of_ne_of_not_mem (by decide) (not_mem_operandText hname (by decide) v)
  rw [operandsText, splitCommas_append_comma (not_mem_operandText (by decide) (by decide) c.r),
    splitCommas_append_comma (hlater (by decide) c.g), splitCommas_append_comma (hlater (by decide) c.b),
    splitCommas_eq_singleton (hlater (by decide) c.i)]

/-- Written operands are read as their color. -/
theorem parseColor_operandsText (c : Color) : parseColor (operandsText c) = some c := by
  simp (disch := decide) only [parseColor, splitCommas_operandsText, parseOperand_space_cons,
    parseOperand_operandText]

/-- No comment begins in the operands. -/
theorem semicolon_not_mem_operandsText (c : Color) : ';' ∉ operandsText c := by
  simp (disch := decide) [operandsText, not_mem_operandText]

/-- The operands end with no blank. -/
theorem isBlank_getLast?_operandsText (c : Color) : ∀ x ∈ (operandsText c).getLast?, isBlank x = false := by
  intro x hx
  have hlast : x ∈ (operandText 'i' c.i).getLast? := by simpa [operandsText, operandText, byteText] using hx
  exact isBlank_of_isPlain (isPlain_of_mem_operandText (by decide) (List.mem_of_getLast? hlast))

/-- No blank is cut from the operands. -/
theorem trimBlanks_operandsText (c : Color) : trimBlanks (operandsText c) = operandsText c := by
  refine trimBlanks_eq_self (fun x hx => ?_) (isBlank_getLast?_operandsText c)
  cases hx
  decide

/-! ### Lines -/

section
variable {name : List Char} (hname : name.all isPlain = true)
include hname

/-- Nothing is cut from a line of a mnemonic and a color: it has no comment and no blanks at either end. -/
theorem trimBlanks_append_colorText (hne : name ≠ []) (c : Color) :
    trimBlanks ((name ++ colorText c).takeWhile (· != ';')) = name ++ colorText c := by
  rw [List.all_eq_true] at hname
  have hnone : ';' ∉ name := fun hmem => absurd (hname _ hmem) (by decide)
  have hcut : (name ++ colorText c).takeWhile (· != ';') = name ++ colorText c := by
    rw [List.takeWhile_eq_self_iff]
    intro x hx
    rw [bne_iff_ne]
    rintro rfl
    simp [colorText_eq, hnone, semicolon_not_mem_operandsText] at hx
  rw [hcut]
  refine trimBlanks_eq_self (fun x hx => ?_) (fun x hx => ?_)
  · rw [List.head?_append_of_ne_nil _ hne] at hx
    exact isBlank_of_isPlain (hname x (List.mem_of_head? hx))
  · refine isBlank_getLast?_operandsText c x ?_
    simpa [colorText_eq, operandsText, operandText] using hx

/-- The mnemonic of such a line. -/
theorem takeWhile_append_colorText (c : Color) : (name ++ colorText c).takeWhile (fun x => !isBlank x) = name := by
  rw [List.all_eq_true] at hname
  rw [List.takeWhile_append_of_pos fun x hx => by simp [isBlank_of_isPlain (hname x hx)], colorText_eq,
    List.takeWhile_cons_of_neg (by decide), List.append_nil]

/-- The operands of such a line. -/
theorem dropWhile_append_colorText (c : Color) :
    trimBlanks ((name ++ colorText c).dropWhile (fun x => !isBlank x)) = operandsText c := by
  rw [List.all_eq_true] at hname
  rw [List.dropWhile_append_of_pos fun x hx => by simp [isBlank_of_isPlain (hname x hx)], colorText_eq,
    List.dropWhile_cons_of_neg (by decide), trimBlanks_space_cons, trimBlanks_operandsText]

end

/-- The line of setOne is read as setOne. -/
theorem parseLine_setOne (c : Color) : parseLine (lineText (.setOne c)) = .command (.setOne c) := by
  have hname : ['s', 'e', 't', 'O', 'n', 'e'].all isPlain = true := by decide
  simp only [parseLine, lineText, trimBlanks_append_colorText hname (by decide), takeWhile_append_colorText hname,
    dropWhile_append_colorText hname]
  simp [colorLine, parseColor_operandsText]

/-- The line of setAll is read as setAll. -/
theorem parseLine_setAll (c : Color) : parseLine (lineText (.setAll c)) = .command (.setAll c) := by
  have hname : ['s', 'e', 't', 'A', 'l', 'l'].all isPlain = true := by decide
  simp only [parseLine, lineText, trimBlanks_append_colorText hname (by decide), takeWhile_append_colorText hname,
    dropWhile_append_colorText hname]
  simp [colorLine, parseColor_operandsText]

/-- The line of a command in assembler form is read as that command. -/
theorem parseLine_lineText {i : Instr} (h : i.assemblerForm = true) : parseLine (lineText i) = .command i := by
  cases i with
  | sendStart c => cases eq_of_beq h; decide
  | sendEnd c => cases eq_of_beq h; decide
  | init c => cases eq_of_beq h; decide
  | setOne c => exact parseLine_setOne c
  | setAll c => exact parseLine_setAll c
  | turnOff c => cases eq_of_beq h; decide
  | turnAllOff c => cases eq_of_beq h; decide

/-- Settles O30: the line is read as the command, and a program of one line assembles to the word of that. -/
theorem assemblerReadsWhatItWrites : Obligations.AssemblerReadsWhatItWrites := by
  intro i h
  have hline := parseLine_lineText h
  exact ⟨hline, by simp only [assemble, hline]⟩

end Sys2Proof.Machine
end

section
/-! The frame encoder family (spec/40_frame_encoder.md): the layout of a command frame (R80), the laws of its byte 0
(R87), the set path at the reference flag (R88), and the frame that looks like an end delimiter. -/

namespace Sys2Proof.Machine

/-! ### A flag over a masked intensity (R87) -/

/-- Every bit of the flag survives (R87 a). -/
theorem or_and_flag (f x : Byte) : (f ||| x) &&& f = f := by
  ext k hk
  cases h : f[k] <;> simp [h]

/-- What lies under a flag bit is lost (R87 b). -/
theorem flag_or_and_not (f x : Byte) : f ||| (x &&& ~~~f) = f ||| x := by
  ext k hk
  cases h : f[k] <;> simp [h]

/-- Only what lies outside the flag's bits counts (R87 b). -/
theorem flag_or_congr {f x y : Byte} (h : x &&& ~~~f = y &&& ~~~f) : f ||| x = f ||| y := by
  rw [← flag_or_and_not f x, h, flag_or_and_not]

/-- The masks 0x3F and 0x1F differ in bit 5 alone, so a flag with that bit covers their difference (R87 c). -/
theorem masks_agree_outside_flag {f : Byte} (h : f.getLsbD 5 = true) : 0x3F &&& ~~~f = 0x1F &&& ~~~f := by
  have hmask : ∀ k (hk : k < 8), k ≠ 5 → (0x3F : Byte)[k] = (0x1F : Byte)[k] := by decide
  ext k hk
  rcases eq_or_ne k 5 with rfl | hne
  · have hbit : f[5] = true := h
    simp [hbit]
  · rw [BitVec.getElem_and, BitVec.getElem_and, hmask k hk hne]

/-! ### The encoder -/

/-- Byte 0 of a command frame (R80). -/
@[simp] theorem enc_getElem?_zero (f : Byte) (c : Color) (m : Byte) :
    (enc f c m)[0]? = some (f ||| (c.i &&& m)) := rfl

/-- Masks that agree outside the flag's bits give the same frame. -/
theorem enc_congr_mask {f m m' : Byte} (h : m &&& ~~~f = m' &&& ~~~f) (c : Color) : enc f c m = enc f c m' := by
  have hbyte : f ||| (c.i &&& m) = f ||| (c.i &&& m') :=
    flag_or_congr (by rw [BitVec.and_assoc, h, BitVec.and_assoc])
  rw [enc, enc, hbyte]

/-- Under a flag with bit 5 both reference masks give the same frame (R87 c). -/
theorem enc_masks_of_bit5 {f : Byte} (h : f.getLsbD 5 = true) (c : Color) : enc f c 0x3F = enc f c 0x1F :=
  enc_congr_mask (masks_agree_outside_flag h) c

/-! ### The obligations -/

/-- Settles O17: the encoder's equation, and its worked example computed. -/
theorem encoderLaysOutFrame : Obligations.EncoderLaysOutFrame :=
  ⟨fun _ _ _ => rfl, by decide⟩

/-- Settles O18: the laws of R87 are those of a flag over a masked intensity; both reference flags have bit 5. -/
theorem byteZeroLaws : Obligations.ByteZeroLaws := by
  refine ⟨fun f c m => ⟨_, enc_getElem?_zero f c m, or_and_flag f _,
    fun hf hzero => hf (BitVec.or_eq_zero_iff.mp hzero).1⟩, fun f c d m h => ?_, fun f c hf => ?_,
    fun c => ⟨?_, ?_⟩, fun c hi => ?_⟩
  · rw [enc_getElem?_zero, enc_getElem?_zero, flag_or_congr h]
  · rw [enc_masks_of_bit5 hf]
  · rw [enc_masks_of_bit5 (by decide)]
  · rw [enc_masks_of_bit5 (by decide)]
  · rw [enc_getElem?_zero, hi]
    decide

/-- Settles O19: 0xE0 has bit 5; 0xC0 has not, and there the mask decides whether bit 5 of the intensity is sent. -/
theorem setPathAtReferenceFlag : Obligations.SetPathAtReferenceFlag := by
  refine ⟨enc_masks_of_bit5 (by decide), fun c hi => ?_⟩
  rw [enc, enc, hi]
  exact ⟨rfl, rfl⟩

/-- Settles O20: the set path sends only the low five bits of the intensity, and these fill byte 0 under 0xE0. -/
theorem frameCanEqualEndDelimiter : Obligations.FrameCanEqualEndDelimiter := by
  intro n p f i hi
  calc setFrame (Config.reference n p f) ⟨0xFF, 0xFF, 0xFF, i⟩
      = enc 0xE0 ⟨0xFF, 0xFF, 0xFF, i⟩ 0x1F := enc_masks_of_bit5 (f := 0xE0) (by decide) _
    _ = [0xFF, 0xFF, 0xFF, 0xFF] := by rw [enc, hi]; rfl
    _ = delimEnd (Config.reference n p f) := rfl

end Sys2Proof.Machine
end

section
/-! The delimiter family (spec/41_delimiters.md): sendStart and sendEnd send one delimiter, sized by FRAME_SIZE alone
(R90 to R92). -/

namespace Sys2Proof

/-- The reference configuration is valid for every chain with a device (R5, R9). -/
theorem Config.reference_valid {n : Nat} (hn : 1 ≤ n) (p : Bool) (f : Byte) :
    (Config.reference n p f).valid = true :=
  (Config.valid_iff _).mpr ⟨hn, show 1 ≤ 4 by decide⟩

namespace Machine

/-- sendStart from an idle block of a valid build sends a start delimiter (R90). -/
theorem runsAs_sendStart {cfg : Config} {s : State} (hv : cfg.valid = true) (hb : s.busy = false) (c : Color) :
    RunsAs cfg s (.sendStart c) 0x00 c (delimStart cfg) :=
  runsAs_stream hv hb (.sendStart c)

/-- sendEnd from an idle block of a valid build sends an end delimiter (R91). -/
theorem runsAs_sendEnd {cfg : Config} {s : State} (hv : cfg.valid = true) (hb : s.busy = false) (c : Color) :
    RunsAs cfg s (.sendEnd c) 0x01 c (delimEnd cfg) :=
  runsAs_stream hv hb (.sendEnd c)

/-- Settles O10: a word with OP 0x00 has sendStart's fields; the stream is the start delimiter, of four bytes in the
reference configuration. -/
theorem sendStartEmitsStartDelimiter : Obligations.SendStartEmitsStartDelimiter := by
  refine ⟨by decide, fun w hop => ?_, fun cfg s c hv hb => ?_, fun s c n p f hn hb => ?_⟩
  · exact decode_eq_command_iff.mpr ⟨hop.symm, rfl⟩
  · exact runsAs_sendStart hv hb c
  · exact runsAs_sendStart (Config.reference_valid hn p f) hb c

/-- Settles O11: a word with OP 0x01 has sendEnd's fields; the stream is the end delimiter, of four bytes in the
reference configuration. -/
theorem sendEndEmitsEndDelimiter : Obligations.SendEndEmitsEndDelimiter := by
  refine ⟨by decide, fun w hop => ?_, fun cfg s c hv hb => ?_, fun s c n p f hn hb => ?_⟩
  · exact decode_eq_command_iff.mpr ⟨hop.symm, rfl⟩
  · exact runsAs_sendEnd hv hb c
  · exact runsAs_sendEnd (Config.reference_valid hn p f) hb c

end Machine

end Sys2Proof
end

section
/-! The init family (spec/42_init.md): init sends one dark enabled frame to each of the N slots, between the two
delimiters (R100). -/

namespace Sys2Proof.Machine

/-- The frame of init, byte by byte (R80, R83, R100). -/
theorem initFrame_eq (cfg : Config) :
    initFrame cfg = [cfg.enableFlag ||| (cfg.minIntensity &&& cfg.encMask), 0x00, 0x00, 0x00] := rfl

/-- The frame of init in the reference configuration (R5). -/
theorem initFrame_reference (n : Nat) (p : Bool) (f : Byte) :
    initFrame (Config.reference n p f) = [0xE1, 0x00, 0x00, 0x00] := by
  simp [initFrame_eq, Config.reference]

/-- The bytes of init at N = 3 in the reference configuration (R100). -/
theorem initStream_reference_three (p : Bool) (f : Byte) :
    initStream (Config.reference 3 p f) =
      [0x00, 0x00, 0x00, 0x00, 0xE1, 0x00, 0x00, 0x00, 0xE1, 0x00, 0x00, 0x00, 0xE1, 0x00, 0x00, 0x00,
       0xFF, 0xFF, 0xFF, 0xFF] := by
  rw [initStream, initFrame_reference]
  rfl

/-- init from an idle block of a valid build sends its stream, whatever its color fields are (R65, R100). -/
theorem runsAs_init {cfg : Config} {s : State} (hv : cfg.valid = true) (hb : s.busy = false) (c : Color) :
    RunsAs cfg s (.init c) 0x02 c (initStream cfg) :=
  runsAs_stream hv hb (.init c)

/-- Settles O12: a word with OP 0x02 has init's fields; the stream is a transaction of the dark enabled frame, written
out for three slots in the reference configuration. -/
theorem initEmitsDarkFrames : Obligations.InitEmitsDarkFrames := by
  refine ⟨by decide, fun w hop => ?_, fun cfg s c hv hb => ?_, fun s c p f hb => ?_⟩
  · exact decode_eq_command_iff.mpr ⟨hop.symm, rfl⟩
  · rw [← initFrame_eq]
    exact runsAs_init hv hb c
  · rw [← initStream_reference_three p f]
    exact runsAs_init (Config.reference_valid (by decide) p f) hb c

end Sys2Proof.Machine
end

section
/-! The color set family (spec/43_color_set.md): setOne sends the frame of its color, setAll one such frame to each of
the N slots between the two delimiters (R110, R111), and the laws over several commands that follow. -/

namespace Sys2Proof.Machine

/-! ### Several commands -/

/-- Commands issued one after the other to an idle block of a valid build send their streams in order and leave it
idle (R48). -/
theorem issueAll_streams {cfg : Config} (hv : cfg.valid = true) (cmds : List Instr) {s : State}
    (hb : s.busy = false) :
    ∃ t, issueAll cfg cmds s = .next t ∧ t.tx = s.tx ++ streams cfg cmds ∧ t.busy = false := by
  induction cmds generalizing s with
  | nil => exact ⟨s, rfl, (List.append_nil _).symm, hb⟩
  | cons i rest ih =>
    obtain ⟨u, hu, hutx, hub⟩ := issue_stream hv hb i
    obtain ⟨t, ht, httx, htb⟩ := ih hub
    refine ⟨t, by simp only [issueAll, hu, ht], ?_, htb⟩
    rw [httx, hutx, List.append_assoc, streams, streams, List.flatMap_cons]

/-- A window of N times one command sends the bytes of a transaction of that command's own bytes (R31). -/
theorem streams_window (cfg : Config) (i : Instr) (a b : Color) :
    streams cfg (.sendStart a :: (List.replicate cfg.chainLength i ++ [.sendEnd b])) =
      transaction cfg (stream cfg i) := by
  have hends : stream cfg (.sendStart a) = delimStart cfg ∧ stream cfg (.sendEnd b) = delimEnd cfg := ⟨rfl, rfl⟩
  simp [streams, transaction, copies, hends, List.flatMap_replicate]

/-! ### One command (R110, R111) -/

/-- The frame of setOne and setAll, byte by byte (R80, R110). -/
theorem setFrame_eq (cfg : Config) (c : Color) :
    setFrame cfg c = [cfg.enableFlag ||| (c.i &&& cfg.setMask), c.b, c.g, c.r] := rfl

/-- The frame of the spec's example color in the reference configuration (R5, R110). -/
theorem setFrame_reference (n : Nat) (p : Bool) (f : Byte) :
    setFrame (Config.reference n p f) ⟨0x10, 0x20, 0x30, 0x05⟩ = [0xE5, 0x30, 0x20, 0x10] := by
  simp [setFrame_eq, Config.reference]

/-- The bytes of setAll of the example color at N = 3 in the reference configuration (R111). -/
theorem setAllStream_reference_three (p : Bool) (f : Byte) :
    setAllStream (Config.reference 3 p f) ⟨0x10, 0x20, 0x30, 0x05⟩ =
      [0x00, 0x00, 0x00, 0x00, 0xE5, 0x30, 0x20, 0x10, 0xE5, 0x30, 0x20, 0x10, 0xE5, 0x30, 0x20, 0x10,
       0xFF, 0xFF, 0xFF, 0xFF] := by
  rw [setAllStream, setFrame_reference]
  rfl

/-- setOne from an idle block of a valid build sends the frame of its color (R110). -/
theorem runsAs_setOne {cfg : Config} {s : State} (hv : cfg.valid = true) (hb : s.busy = false) (c : Color) :
    RunsAs cfg s (.setOne c) 0x03 c (setFrame cfg c) :=
  runsAs_stream hv hb (.setOne c)

/-- setAll from an idle block of a valid build sends its stream (R111). -/
theorem runsAs_setAll {cfg : Config} {s : State} (hv : cfg.valid = true) (hb : s.busy = false) (c : Color) :
    RunsAs cfg s (.setAll c) 0x04 c (setAllStream cfg c) :=
  runsAs_stream hv hb (.setAll c)

/-- Settles O13: a word with OP 0x03 has setOne's fields; the stream is the one frame of the color, written out for the
example color in the reference configuration. -/
theorem setOneEmitsColorFrame : Obligations.SetOneEmitsColorFrame := by
  refine ⟨fun w hop => ?_, fun cfg s c hv hb => ?_, fun s n p f hn hb => ⟨by decide, ?_⟩⟩
  · exact decode_eq_command_iff.mpr ⟨hop.symm, rfl⟩
  · rw [← setFrame_eq]
    exact runsAs_setOne hv hb c
  · rw [← setFrame_reference n p f]
    exact runsAs_setOne (Config.reference_valid hn p f) hb _

/-- Settles O14: a word with OP 0x04 has setAll's fields; the stream is a transaction of the color's frame, written out
for the example color and three slots in the reference configuration. -/
theorem setAllEmitsColorFrames : Obligations.SetAllEmitsColorFrames := by
  refine ⟨fun w hop => ?_, fun cfg s c hv hb => ?_, fun s p f hb => ⟨by decide, ?_⟩⟩
  · exact decode_eq_command_iff.mpr ⟨hop.symm, rfl⟩
  · rw [← setFrame_eq]
    exact runsAs_setAll hv hb c
  · rw [← setAllStream_reference_three p f]
    exact runsAs_setAll (Config.reference_valid (by decide) p f) hb _

/-! ### Composability and idempotence -/

/-- Settles O23: both lists of commands send one transaction of the color's frame. -/
theorem windowOfSetOneEqualsSetAll : Obligations.WindowOfSetOneEqualsSetAll := by
  intro cfg s c a b hv hb
  obtain ⟨t, ht, httx, htb⟩ := issueAll_streams hv
    (.sendStart a :: (List.replicate cfg.chainLength (.setOne c) ++ [.sendEnd b])) hb
  obtain ⟨u, hu, hutx, hub⟩ := issueAll_streams hv [.setAll c] hb
  have hwindow : t.tx = s.tx ++ setAllStream cfg c := by rw [httx, streams_window]; rfl
  have hwhole : u.tx = s.tx ++ setAllStream cfg c := by simpa [streams, stream] using hutx
  refine ⟨t, u, ht, hu, htb, hub, hwindow.trans hwhole.symm, ?_⟩
  rw [hwhole, setAllStream, transaction, ← List.append_assoc, ← List.append_assoc]

/-- Settles O25: both commands send the same stream, of the length of a transaction. -/
theorem repeatedSetAllRepeatsBytes : Obligations.RepeatedSetAllRepeatsBytes := by
  intro cfg s c hv hb
  obtain ⟨t, ht, httx, htb⟩ := issueAll_streams hv [.setAll c, .setAll c] hb
  refine ⟨setAllStream cfg c, t, transaction_length cfg _ (enc_length _ _ _), ht, ?_, htb⟩
  simpa [streams, stream] using httx

end Sys2Proof.Machine
end

section
/-! The power family (spec/44_power.md): turnOff sends one off frame, turnAllOff one to each of the N slots between the
two delimiters (R120 to R122), and the composition law that relates the two. -/

namespace Sys2Proof.Machine

/-! ### The off frame (R120) -/

/-- With POWER_SAVING the off flag is the sleep flag (R120). -/
theorem offFlag_powerSaving {cfg : Config} (h : cfg.powerSaving = true) : offFlag cfg = cfg.sleepFlag := if_pos h

/-- Without POWER_SAVING the off flag is the start flag (R120). -/
theorem offFlag_not_powerSaving {cfg : Config} (h : cfg.powerSaving = false) : offFlag cfg = cfg.startFlag :=
  if_neg (by simp [h])

/-- The off frame, byte by byte (R80, R83, R120). -/
theorem offFrame_eq (cfg : Config) :
    offFrame cfg = [offFlag cfg ||| (cfg.minIntensity &&& cfg.encMask), 0x00, 0x00, 0x00] := rfl

/-- The off frame of the reference configuration with POWER_SAVING (R5, R121). -/
theorem offFrame_reference_powerSaving (n : Nat) (f : Byte) :
    offFrame (Config.reference n true f) = [0xA1, 0x00, 0x00, 0x00] := by
  rw [offFrame_eq, offFlag_powerSaving rfl]
  simp [Config.reference]

/-- The off frame of the reference configuration without POWER_SAVING, START_FLAG left open (R6, R121). -/
theorem offFrame_reference_not_powerSaving (n : Nat) (f : Byte) :
    offFrame (Config.reference n false f) = [f ||| 0x01, 0x00, 0x00, 0x00] := by
  rw [offFrame_eq, offFlag_not_powerSaving rfl]
  simp [Config.reference]

/-- The bytes of turnAllOff at N = 2 in the reference configuration with POWER_SAVING (R122). -/
theorem turnAllOffStream_reference_two (f : Byte) :
    turnAllOffStream (Config.reference 2 true f) =
      [0x00, 0x00, 0x00, 0x00, 0xA1, 0x00, 0x00, 0x00, 0xA1, 0x00, 0x00, 0x00, 0xFF, 0xFF, 0xFF, 0xFF] := by
  rw [turnAllOffStream, offFrame_reference_powerSaving]
  rfl

/-! ### One command (R121, R122) -/

/-- turnOff from an idle block of a valid build sends the off frame, whatever its color fields are (R65, R121). -/
theorem runsAs_turnOff {cfg : Config} {s : State} (hv : cfg.valid = true) (hb : s.busy = false) (c : Color) :
    RunsAs cfg s (.turnOff c) 0x05 c (offFrame cfg) :=
  runsAs_stream hv hb (.turnOff c)

/-- turnAllOff from an idle block of a valid build sends its stream, whatever its color fields are (R65, R122). -/
theorem runsAs_turnAllOff {cfg : Config} {s : State} (hv : cfg.valid = true) (hb : s.busy = false) (c : Color) :
    RunsAs cfg s (.turnAllOff c) 0x06 c (turnAllOffStream cfg) :=
  runsAs_stream hv hb (.turnAllOff c)

/-- Settles O15: a word with OP 0x05 has turnOff's fields; the stream is the one off frame, whose flag POWER_SAVING
chooses. -/
theorem turnOffEmitsOffFrame : Obligations.TurnOffEmitsOffFrame := by
  refine ⟨by decide, fun w hop => ?_, fun cfg s c hv hb => ⟨fun hp => ?_, fun hp => ?_⟩,
    fun s c n p f hn hb => ⟨fun hp => ?_, fun hp => ?_⟩⟩
  · exact decode_eq_command_iff.mpr ⟨hop.symm, rfl⟩
  · rw [← offFlag_powerSaving hp, ← offFrame_eq]
    exact runsAs_turnOff hv hb c
  · rw [← offFlag_not_powerSaving hp, ← offFrame_eq]
    exact runsAs_turnOff hv hb c
  · rw [hp, ← offFrame_reference_powerSaving n f]
    exact runsAs_turnOff (Config.reference_valid hn true f) hb c
  · rw [hp, ← offFrame_reference_not_powerSaving n f]
    exact runsAs_turnOff (Config.reference_valid hn false f) hb c

/-- Settles O16: a word with OP 0x06 has turnAllOff's fields; the stream is a transaction of the off frame, written out
for two slots in the reference configuration. -/
theorem turnAllOffEmitsOffFrames : Obligations.TurnAllOffEmitsOffFrames := by
  refine ⟨by decide, fun w hop => ?_, fun cfg s c hv hb => ?_, fun s c f hb => ?_⟩
  · exact decode_eq_command_iff.mpr ⟨hop.symm, rfl⟩
  · rw [← offFlag, ← offFrame_eq]
    exact runsAs_turnAllOff hv hb c
  · rw [← turnAllOffStream_reference_two f]
    exact runsAs_turnAllOff (Config.reference_valid (by decide) true f) hb c

/-! ### Composition -/

/-- A command whose stream is a transaction of another's bytes sends what a window of N times the other sends, and both
leave the block idle (R31, R48). -/
theorem issueAll_window_eq_whole {cfg : Config} {s : State} {part whole : Instr} (hv : cfg.valid = true)
    (hb : s.busy = false) (hwhole : stream cfg whole = transaction cfg (stream cfg part)) (a b : Color) :
    ∃ t u, issueAll cfg (.sendStart a :: (List.replicate cfg.chainLength part ++ [.sendEnd b])) s = .next t ∧
      issueAll cfg [whole] s = .next u ∧ t.busy = false ∧ u.busy = false ∧ t.tx = u.tx ∧
      u.tx = s.tx ++ delimStart cfg ++ copies cfg.chainLength (stream cfg part) ++ delimEnd cfg := by
  obtain ⟨t, ht, httx, htb⟩ := issueAll_streams hv
    (.sendStart a :: (List.replicate cfg.chainLength part ++ [.sendEnd b])) hb
  obtain ⟨u, hu, hutx, hub⟩ := issueAll_streams hv [whole] hb
  rw [streams_window] at httx
  rw [streams, List.flatMap_singleton, hwhole] at hutx
  refine ⟨t, u, ht, hu, htb, hub, httx.trans hutx.symm, ?_⟩
  rw [hutx, transaction, ← List.append_assoc, ← List.append_assoc]

/-- Settles O24: the stream of turnAllOff is the transaction of turnOff's bytes. -/
theorem windowOfTurnOffEqualsTurnAllOff : Obligations.WindowOfTurnOffEqualsTurnAllOff :=
  fun cfg _ a b c d hv hb => issueAll_window_eq_whole (part := .turnOff c) (whole := .turnAllOff d) hv hb
    (show turnAllOffStream cfg = transaction cfg (turnOffStream cfg) from rfl) a b

end Sys2Proof.Machine
end

section
/-! The exceptions family (spec/60_exceptions.md): a block whose transport never accepts waits until a RESET (R131,
R137), and a run that has ended well stays so (R143). -/

namespace Sys2Proof.Machine

/-! ### The step's own inputs (log 7) -/

/-- No RESET in a schedule: none in its first step and none later. -/
theorem noReset_cons {p : Inputs} {ins : List Inputs} :
    noReset (p :: ins) = true ↔ p.reset = false ∧ noReset ins = true := by
  simp [noReset]

/-- No command in a schedule: none in its first step and none later. -/
theorem noCommand_cons {p : Inputs} {ins : List Inputs} :
    noCommand (p :: ins) = true ↔ p.cmdValid = false ∧ noCommand ins = true := by
  simp [noCommand]

/-- The first steps of a schedule without RESET, seen after one step: the quiet end adds no RESET. -/
theorem State.advance_noReset_take {s : State} {n : Nat} (h : noReset (s.inputs.take (n + 1)) = true) :
    noReset (s.advance.inputs.take n) = true := by
  rw [State.inputs_eq, List.take_succ_cons, noReset_cons] at h
  rw [State.advance_inputs]
  split_ifs
  · exact noReset_take rfl n
  · exact h.2

/-! ### A stuck block (R131 c, R137) -/

/-- The transport is not ready in the step of a stuck block. -/
theorem State.Stuck.txReady {s : State} (h : s.Stuck) : s.port.txReady = false := by
  have hacc := h.2
  rw [State.inputs_eq, acceptances_cons] at hacc
  cases ht : s.port.txReady with
  | false => rfl
  | true => simp [ht] at hacc

/-- The outside's move frees no stuck block. -/
theorem State.Stuck.advance {s : State} (h : s.Stuck) : s.advance.Stuck :=
  ⟨h.1, State.advance_acceptances h.2⟩

/-- A stuck block has no event but RESET. -/
theorem State.Stuck.event {cfg : Config} {s : State} (h : s.Stuck) (hv : cfg.valid = true) :
    s.event cfg = if s.port.reset then .reset else .wait := by
  simp [State.event_of_busy h.1, hv, h.txReady]

/-- Without RESET a stuck block waits at every step, stuck still. -/
theorem State.Stuck.run {cfg : Config} {s : State} (h : s.Stuck) (hv : cfg.valid = true)
    (hr : noReset s.inputs = true) (n : Nat) :
    ∃ t, run cfg n s = .next t ∧ t.Stuck ∧ t.pos = s.pos ∧ t.op = s.op ∧ t.color = s.color ∧ t.tx = s.tx := by
  induction n generalizing s with
  | zero => exact ⟨s, rfl, h, rfl, rfl, rfl, rfl⟩
  | succ n ih =>
    have hwait : stepWith cfg s = .next s.advance :=
      stepWith_wait hv (noReset_cons.mp hr).1 (.inl ⟨h.1, h.txReady⟩)
    rw [run_succ hwait]
    exact ih h.advance (State.advance_noReset hr)

/-- Settles O52: a stuck block waits but for a RESET, and a wait leaves it stuck. -/
theorem stalledTransportHoldsCommand : Obligations.StalledTransportHoldsCommand := by
  refine ⟨fun cfg s hv h => h.event hv, fun cfg s hv h hr => ⟨fun n => ?_, h.run hv hr⟩, fun cfg s hv _ hr => ?_⟩
  · obtain ⟨t, ht, hstuck, -⟩ := h.run hv hr n
    exact ⟨t, ht, hstuck.1⟩
  · exact ⟨_, stepWith_reset hv hr, rfl, rfl, rfl⟩

/-! ### The end of a run (R143) -/

/-- A run that has ended well takes RESETs and waits, and nothing else. -/
theorem State.EndedWell.step {cfg : Config} {s : State} (h : s.EndedWell) (hv : cfg.valid = true) :
    ∃ t, stepWith cfg s = .next t ∧ t.EndedWell ∧ t.tx = s.tx ∧ (s.port.reset = false → t.history = s.history) := by
  have hlater : noCommand s.advance.inputs = true := State.advance_noCommand h.2
  cases hr : s.port.reset with
  | true => exact ⟨s.afterReset.advance, stepWith_reset hv hr, ⟨rfl, hlater⟩, rfl, nofun⟩
  | false =>
    exact ⟨s.advance, stepWith_wait hv hr (.inr ⟨h.1, (noCommand_cons.mp h.2).1⟩), ⟨h.1, hlater⟩, rfl, fun _ => rfl⟩

/-- Settles O54, by induction on the number of steps. -/
theorem endedRunStaysSilent : Obligations.EndedRunStaysSilent := by
  intro cfg s n hv h
  induction n generalizing s with
  | zero => exact ⟨s, rfl, h, rfl, fun _ => rfl⟩
  | succ n ih =>
    obtain ⟨u, hu, hended, hutx, huhist⟩ := h.step hv
    obtain ⟨t, ht, htended, httx, hthist⟩ := ih u hended
    refine ⟨t, (run_succ hu).trans ht, htended, httx.trans hutx, fun hr => ?_⟩
    have hnow : s.port.reset = false := (noReset_cons.mp hr).1
    have hrest : noReset (u.inputs.take n) = true := by
      rw [stepWith_inputs hu]
      exact State.advance_noReset_take hr
    exact (hthist hrest).trans (huhist hnow)

end Sys2Proof.Machine
end

section
/-! The reset and hazards family (spec/70_reset_and_hazards.md): what a RESET leaves to the next command (R151), the
record of the accepted commands (R154), and its grammar, which the block never checks. -/

namespace Sys2Proof.Machine

/-! ### RESET and the record of history -/

/-- Settles O2: RESET leaves the block idle, and an idle block of a valid build runs every command from its start. -/
theorem resetAbortsCommandInFlight : Obligations.ResetAbortsCommandInFlight :=
  fun _ _ hv _ hr => ⟨_, stepWith_reset hv hr, rfl, rfl, rfl, runsAs_stream hv rfl⟩

/-- Settles O42: of the four things a step can do, RESET empties the history, ACCEPT appends to it, and EMIT and waiting
keep it. -/
theorem historyRecordsAcceptedCommands : Obligations.HistoryRecordsAcceptedCommands := by
  intro cfg s t h
  obtain ⟨-, ⟨hr, rfl⟩ | ⟨hr, hb, -, b, -, rfl⟩ | ⟨hr, hb, hc, i, hd, rfl⟩ | ⟨hr, hwait, rfl⟩⟩ := stepWith_cases h
  · simp [hr]
  · simp [hr, hb]
  · simp [hr, hb, hc, hd]
  · obtain ⟨hb, -⟩ | ⟨hb, hc⟩ := hwait
    · simp [hr, hb]
    · simp [hr, hb, hc]

/-- Settles O48: each event is taken with any other history, and no cause of a refusal speaks of the history. -/
theorem windowDisciplineIsNotEnforced : Obligations.WindowDisciplineIsNotEnforced := by
  intro cfg s h
  constructor
  · intro t hs
    obtain ⟨hv, ⟨hr, rfl⟩ | ⟨hr, hb, ht, b, hbyte, rfl⟩ | ⟨hr, hb, hc, i, hd, rfl⟩ | ⟨hr, hwait, rfl⟩⟩ :=
      stepWith_cases hs
    · exact ⟨[], stepWith_reset hv hr⟩
    · exact ⟨h, stepWith_emit hv hr hb ht hbyte⟩
    · exact ⟨h ++ [i], stepWith_accept hv hr hb hc hd⟩
    · exact ⟨h, stepWith_wait hv hr hwait⟩
  · intro x hs
    have hcause := stepWith_refused_iff.mp hs
    exact stepWith_refused_iff.mpr hcause

/-! ### One command of the recogniser -/

/-- No command leads back to the start. -/
theorem Place.after_ne_start (p : Place) (i : Instr) : p.after i ≠ .start := by
  cases p with
  | start => cases i <;> nofun
  | outside => cases i <;> nofun
  | inside => cases i <;> nofun
  | broken => nofun

/-- The commands that lead outside every window: the first init, a self-contained one there, and the end of a window. -/
theorem Place.after_eq_outside {p : Place} {i : Instr} (h : p.after i = .outside) :
    (p = .start ∧ ∃ c, i = .init c) ∨ (p = .outside ∧ selfContained i = true) ∨
      (p = .inside ∧ ∃ b, i = .sendEnd b) := by
  cases p with
  | start => cases i <;> simp_all [Place.after]
  | outside => cases i <;> simp_all [Place.after, selfContained]
  | inside => cases i <;> simp_all [Place.after, fragment]
  | broken => cases h

/-- The commands that lead inside a window: its start, and a fragment there. -/
theorem Place.after_eq_inside {p : Place} {i : Instr} (h : p.after i = .inside) :
    (p = .outside ∧ ∃ a, i = .sendStart a) ∨ (p = .inside ∧ fragment i = true) := by
  cases p with
  | start => cases i <;> cases h
  | outside => cases i <;> simp_all [Place.after, selfContained]
  | inside => cases i <;> simp_all [Place.after, fragment]
  | broken => cases h

/-- A self-contained command leaves every window closed. -/
theorem Place.outside_after_selfContained {i : Instr} (h : selfContained i = true) :
    Place.outside.after i = .outside := by
  cases i <;> simp_all [Place.after, selfContained]

/-- A fragment leaves the window open. -/
theorem Place.inside_after_fragment {i : Instr} (h : fragment i = true) : Place.inside.after i = .inside := by
  cases i <;> simp_all [Place.after, fragment]

/-! ### What the recogniser accepts keeps the grammar -/

/-- One more command at the end of a history. -/
theorem placeOf_concat (h : List Instr) (i : Instr) : placeOf (h ++ [i]) = (placeOf h).after i :=
  List.foldl_concat ..

/-- Only the empty history is at the start. -/
theorem eq_nil_of_placeOf_eq_start {h : List Instr} (hp : placeOf h = .start) : h = [] := by
  cases h using List.reverseRecOn with
  | nil => rfl
  | append_singleton h i => exact absurd (placeOf_concat h i ▸ hp) (Place.after_ne_start _ i)

/-- One more item at the end. -/
theorem Items.concat {items item : List Instr} (h : Items items) (hi : Item item) : Items (items ++ item) := by
  induction h with
  | none => simpa using Items.more item [] hi .none
  | more first rest hfirst _ ih => rw [List.append_assoc]; exact .more first _ hfirst ih

/-- A complete history followed by an item is complete. -/
theorem CompleteHistory.append_item {h item : List Instr} (hh : CompleteHistory h) (hi : Item item) :
    CompleteHistory (h ++ item) := by
  obtain ⟨c, items, rfl, hitems⟩ := hh
  exact ⟨c, items ++ item, rfl, hitems.concat hi⟩

/-- A fragment keeps the window open. -/
theorem OpenHistory.append_fragment {h : List Instr} {i : Instr} (hh : OpenHistory h) (hi : fragment i = true) :
    OpenHistory (h ++ [i]) := by
  obtain ⟨before, a, fs, hbefore, hfs, rfl⟩ := hh
  refine ⟨before, a, fs ++ [i], hbefore, ?_, by simp⟩
  simpa [or_imp, forall_and] using ⟨hfs, hi⟩

/-- sendEnd closes the window, whose commands then are an item. -/
theorem OpenHistory.append_sendEnd {h : List Instr} (hh : OpenHistory h) (b : Color) :
    CompleteHistory (h ++ [.sendEnd b]) := by
  obtain ⟨before, a, fs, hbefore, hfs, rfl⟩ := hh
  rw [List.append_assoc, List.cons_append]
  exact hbefore.append_item (.window a b fs hfs)

/-- The recogniser is sound, by induction on the history from its end. -/
theorem grammar_of_placeOf (h : List Instr) :
    (placeOf h = .outside → CompleteHistory h) ∧ (placeOf h = .inside → OpenHistory h) := by
  induction h using List.reverseRecOn with
  | nil => exact ⟨nofun, nofun⟩
  | append_singleton h i ih =>
    obtain ⟨ihout, ihin⟩ := ih
    rw [placeOf_concat]
    constructor
    · intro hp
      obtain ⟨hstart, c, rfl⟩ | ⟨hout, hi⟩ | ⟨hin, b, rfl⟩ := Place.after_eq_outside hp
      · rw [eq_nil_of_placeOf_eq_start hstart]
        exact ⟨c, [], rfl, .none⟩
      · exact (ihout hout).append_item (.whole i hi)
      · exact (ihin hin).append_sendEnd b
    · intro hp
      obtain ⟨hout, a, rfl⟩ | ⟨hin, hi⟩ := Place.after_eq_inside hp
      · exact ⟨h, a, [], ihout hout, nofun, rfl⟩
      · exact (ihin hin).append_fragment hi

/-! ### What keeps the grammar is accepted -/

/-- Fragments keep a window open. -/
theorem foldl_after_fragments {fs : List Instr} (h : ∀ f ∈ fs, fragment f = true) :
    fs.foldl Place.after .inside = .inside := by
  induction fs with
  | nil => rfl
  | cons f fs ih =>
    obtain ⟨hf, hfs⟩ := List.forall_mem_cons.mp h
    rw [List.foldl_cons, Place.inside_after_fragment hf]
    exact ih hfs

/-- An item begins and ends outside every window. -/
theorem Item.foldl_after {item : List Instr} (h : Item item) : item.foldl Place.after .outside = .outside := by
  cases h with
  | whole i hi => exact Place.outside_after_selfContained hi
  | window a b fs hfs =>
    have hopen : Place.outside.after (.sendStart a) = .inside := rfl
    rw [List.foldl_cons, hopen, List.foldl_concat, foldl_after_fragments hfs]
    rfl

/-- Items, one after the other, begin and end outside every window. -/
theorem Items.foldl_after {items : List Instr} (h : Items items) :
    items.foldl Place.after .outside = .outside := by
  induction h with
  | none => rfl
  | more item rest hitem _ ih => rw [List.foldl_append, hitem.foldl_after, ih]

/-- A complete history leads outside every window. -/
theorem CompleteHistory.placeOf_eq {h : List Instr} (hh : CompleteHistory h) : placeOf h = .outside := by
  obtain ⟨c, items, rfl, hitems⟩ := hh
  exact hitems.foldl_after

/-- An open history leads inside a window. -/
theorem OpenHistory.placeOf_eq {h : List Instr} (hh : OpenHistory h) : placeOf h = .inside := by
  obtain ⟨before, a, fs, hbefore, hfs, rfl⟩ := hh
  have hout : before.foldl Place.after .start = .outside := hbefore.placeOf_eq
  rw [placeOf, List.foldl_append, hout]
  exact foldl_after_fragments hfs

/-- Settles O55: the recogniser is sound and complete for both kinds of history. -/
theorem recogniserAgreesWithGrammar : Obligations.RecogniserAgreesWithGrammar := by
  intro h
  obtain ⟨hout, hin⟩ := grammar_of_placeOf h
  exact ⟨⟨hout, CompleteHistory.placeOf_eq⟩, ⟨hin, OpenHistory.placeOf_eq⟩⟩

end Sys2Proof.Machine
end

section
/-! The statements about the whole block: RESET excludes the other events (R133), and a run keeps to the streams of the
one configuration it began with (R8, R48). -/

namespace Sys2Proof.Machine

/-- RESET is chosen, in a valid build, without a look at the rest of the port (R133). -/
theorem State.event_of_reset {s : State} (hr : s.port.reset = true) (cfg : Config) :
    s.event cfg = if cfg.valid then .reset else .noRun := by
  rw [State.event, if_pos hr]

/-- Settles O3: a step reads its inputs only to find its event, which RESET fixes. -/
theorem resetExcludesOtherEvents : Obligations.ResetExcludesOtherEvents := by
  intro cfg s v w r hr
  have hevent : ({ s with port := { s.port with cmdValid := v, cmdWord := w, txReady := r } } : State).event cfg =
      s.event cfg := by
    rw [State.event_of_reset hr]
    apply State.event_of_reset
    exact hr
  exact ⟨stepWith_port_congr hevent, fun hv => ⟨_, stepWith_reset hv hr, rfl, rfl⟩⟩

/-- Settles O36: the induction over a run, from O31's base case and O34's step. -/
theorem configurationNeverChanges : Obligations.ConfigurationNeverChanges :=
  fun cfg p l _ _ _ hrun => run_keeps (·.TraceExact cfg) (fun _ _ h hs => h.stepWith hs) (traceExact_reset cfg p l) hrun

end Sys2Proof.Machine
end
